-- ==== Sys2Proof/Word.lean ====
section
/-!
DEFINITION. The plain word types of the HD48's interfaces, and the dock number.

A byte, a 16-bit and a 32-bit word are what the part carries on its links (spec/13_formats.md). Counts, times and
timers are natural numbers: the spec compares and adds them exactly (R17, R24) and states where they saturate.
-/

namespace Sys2Proof

/-- One byte of a link, a frame or a message. -/
abbrev Byte := BitVec 8

/-- A 16-bit quantity: a station group, a raw count. -/
abbrev Half := BitVec 16

/-- A 32-bit quantity: an account, a serial, a station second as a token or a request carries it. -/
abbrev Word := BitVec 32

/-- The dock with number n, 1 to 48 (R40), is the value n − 1. -/
abbrev DockNo := Fin 48

/-- The number 1 to 48 by which the spec calls a dock. -/
abbrev DockNo.number (d : DockNo) : Nat := d.val + 1

end Sys2Proof
end

