-- ==== Sys2Proof/Config.lean ====
section
/-!
DEFINITION. What is fixed for the part: the bounds and lengths its rules name.

The spec leaves no value of this part implementation-defined and none undefined, so no opaque constant stands here
(NOTES.md, '## Assumptions', entry 1).
-/

namespace Sys2Proof.Config

/-- R22: the least trim, 4056 × 256. -/
def trimMin : Nat := 1038336

/-- R22: the greatest trim, 4136 × 256. -/
def trimMax : Nat := 1058816

/-- R22: the factory trim, the length of one millisecond at 4,096,000 Hz in 1/256 cycles. -/
def trimNominal : Nat := 1048576

/-- R25: the greatest step of the trim at one accepted pulse. -/
def trimStepMax : Nat := 512

/-- R24: the shortest accepted interval between two pulses, in oscillator cycles. -/
def pulseMin : Nat := 4055040

/-- R24: the longest accepted interval between two pulses, in oscillator cycles. -/
def pulseMax : Nat := 4136960

/-- R23: the greatest station second. -/
def secondMax : Nat := 4294967295

/-- R30: the greatest uncertainty. -/
def uncertaintyMax : Nat := 65535

/-- R27: the absence count at which k falls to 0. -/
def absenceMax : Nat := 3000

/-- R34: the expiry count at which a pending aligned set is applied. -/
def alignedExpiry : Nat := 2000

/-- R6: the capacity of the deny list. -/
def denyMax : Nat := 512

/-- R9: the capacity of the spent list. -/
def spentMax : Nat := 256

/-- R177: the bound of room, on the occupancy of the Record Queue plus the number of active grants. -/
def roomMax : Nat := 64

/-- R163: the capacity of the presentation inbox. -/
def inboxMax : Nat := 4

/-- R161: the gap count at which the frame in assembly is discarded. -/
def gapMax : Nat := 21

/-- R128: the missed-scan count at which a silent report is made. -/
def missedMax : Nat := 8

/-- R141: the greatest quiet count, which is also its value after reset. -/
def quietMax : Nat := 15

/-- R149: the quiet count at which both levels become NORMAL. -/
def quietRestore : Nat := 8

/-- R154: two sweep scans at each of 32 trial delays. -/
def sweepScans : Nat := 64

/-- R12: a verification ends within this many ms ticks of the start of the check. -/
def verifyTicks : Nat := 2

/-- R182: a store completes no later than this many ms ticks after it began. -/
def storeTicks : Nat := 150

/-- R31, R72, R104, R173: ms ticks in one second of a setting given in seconds. -/
def ticksPerSecond : Nat := 1000

end Sys2Proof.Config
end

