-- ==== Sys2Proof/Syntax.lean ====
section
/-!
DEFINITION. The commands of the HD48: one constructor of Instr for each row of spec/opcode_table.json, with the
operands its rule gives it, and the types of those operands.

A station request carries the operands of its request frame as the bytes and words of spec/13_formats.md, so that an
operand outside its range is a term like any other and is refused by the rule of its command. An event row names what
it concerns: the dock, the rail, the grant id.
-/

namespace Sys2Proof

/-- R184: the three causes of a reset. -/
inductive ResetCause where
  | powerOn | resetLine | lowSupply
deriving DecidableEq, Repr

/-- The two dock rails: A serves docks 1 to 24, B serves docks 25 to 48. -/
inductive RailId where
  | a | b
deriving DecidableEq, Repr

/-- R1: the 24-byte body and the 4-byte tag of a token, as named fields. -/
structure Token where
  format : Byte
  epoch : Byte
  group : Half
  account : Word
  serial : Word
  notBefore : Word
  notAfter : Word
  flags : Byte
  dock : Byte
  bikeClass : Byte
  ticket : Byte
  tag : Word
deriving DecidableEq, Repr

/-- A head's answer to the scan that names it: its status byte and its raw count (R123, R124). -/
structure ScanReply where
  status : Byte
  count : Half
deriving DecidableEq, Repr

/-- What the heads of one rail drive in the upstream part of one frame (R123). A window is the good window of the head
concerned (R151): bit n says whether its reply is readable at delay n. -/
structure Upstream where
  /-- The reply byte of the head the channel addresses. -/
  reply : Byte
  /-- The TAKE flag of the head the channel addresses. -/
  take : Bool
  /-- The good window of the head the channel addresses. -/
  channelWindow : BitVec 32
  /-- The answer of the scanned head, none when it does not answer. -/
  scan : Option ScanReply
  /-- The good window of the scanned head. -/
  scanWindow : BitVec 32
  /-- The attention field: 0 for none, or a head address 1 to 24. -/
  attention : Byte
deriving DecidableEq, Repr

/-- The command catalogue of the station link: a valid request with its operands (spec/10, spec/13_formats.md). -/
inductive Request where
  | status
  | readDock (dock : Byte)
  | readRecords (count : Byte)
  | setTime (seconds : Word) (mode force : Byte)
  | keyLoad (slot epoch : Byte) (key : BitVec 128)
  | keyDrop (slot : Byte)
  | denyAdd (count : Byte) (ids : List Word)
  | denyRemove (account : Word)
  | denyClear
  | holdSet (kind dock id : Byte) (expiry : Word)
  | holdClear (dock : Byte)
  | bikeCondition (dock condition : Byte)
  | lampDirect (dock pattern : Byte)
  | lampAuto (dock : Byte)
  | clearFault (dock : Byte)
  | staffRelease (dock : Byte)
  | abortGrant (grant : Byte)
  | suspend
  | resume
  | railTrain (rail : Byte)
  | settingWrite (setting dock : Byte) (value : BitVec 48)
  | settingRead (setting dock : Byte)
  | storeSettings
  | restoreFactory
  | serviceEnter
  | serviceLeave
deriving DecidableEq, Repr

/-- The commands: one constructor for each row of spec/opcode_table.json. -/
inductive Instr where
  /-- RESET (R184): the board reset, with its cause. -/
  | reset (cause : ResetCause)
  /-- MS_TICK (R23): the end of a millisecond, with what each rail's heads drove in the frame that ends (R121). -/
  | msTick (a b : Upstream)
  /-- ABSENCE_EXPIRY (R27). -/
  | absenceExpiry
  /-- GROWTH_STEP (R31). -/
  | growthStep
  /-- ALIGNED_SET_EXPIRY (R34). -/
  | alignedSetExpiry
  /-- REFPULSE (R24): the oscillator cycles since the last ms tick, or since the last pulse if that came later. -/
  | refpulse (cycles : Nat)
  /-- LINK_SILENCE_EXPIRY (R172). -/
  | linkSilenceExpiry
  /-- WRITE_SELECTION_INVALID (R169): the bytes written in one selection, the selection byte first. -/
  | writeSelectionInvalid (bytes : List Byte)
  /-- READ_SELECTION (R170): how many bytes the selection clocked out after its selection byte. -/
  | readSelection (clocked : Nat)
  /-- STATUS (R174). -/
  | status
  /-- READ_DOCK (R175). -/
  | readDock (dock : Byte)
  /-- READ_RECORDS (R178). -/
  | readRecords (count : Byte)
  /-- SET_TIME_IMMEDIATE (R32). -/
  | setTimeImmediate (seconds : Word) (force : Byte)
  /-- SET_TIME_ALIGNED (R33). -/
  | setTimeAligned (seconds : Word) (force : Byte)
  /-- KEY_LOAD (R4). -/
  | keyLoad (slot epoch : Byte) (key : BitVec 128)
  /-- KEY_DROP (R5). -/
  | keyDrop (slot : Byte)
  /-- DENY_ADD (R7). -/
  | denyAdd (count : Byte) (ids : List Word)
  /-- DENY_REMOVE (R8). -/
  | denyRemove (account : Word)
  /-- DENY_CLEAR (R8). -/
  | denyClear
  /-- HELD_REQUEST_APPLY (R13). -/
  | heldRequestApply
  /-- HOLD_SET_RESERVE (R53). -/
  | holdSetReserve (dock id : Byte) (expiry : Word)
  /-- HOLD_SET_SERVICE (R54). -/
  | holdSetService (dock : Byte)
  /-- HOLD_CLEAR (R54). -/
  | holdClear (dock : Byte)
  /-- BIKE_CONDITION (R56). -/
  | bikeCondition (dock condition : Byte)
  /-- LAMP_DIRECT (R58). -/
  | lampDirect (dock pattern : Byte)
  /-- LAMP_AUTO (R58). -/
  | lampAuto (dock : Byte)
  /-- CLEAR_FAULT (R50). -/
  | clearFault (dock : Byte)
  /-- STAFF_RELEASE (R85). -/
  | staffRelease (dock : Byte)
  /-- ABORT_GRANT (R83). -/
  | abortGrant (grant : Byte)
  /-- SUSPEND (R86). -/
  | suspend
  /-- RESUME (R86). -/
  | resume
  /-- RAIL_TRAIN (R152). -/
  | railTrain (rail : Byte)
  /-- SETTING_WRITE (R181). -/
  | settingWrite (setting dock : Byte) (value : BitVec 48)
  /-- SETTING_READ (R181). -/
  | settingRead (setting dock : Byte)
  /-- STORE_SETTINGS (R182). -/
  | storeSettings
  /-- STORE_COMPLETE (R182). -/
  | storeComplete
  /-- RESTORE_FACTORY (R183). -/
  | restoreFactory
  /-- SERVICE_ENTER (R185). -/
  | serviceEnter
  /-- SERVICE_LEAVE (R186). -/
  | serviceLeave
  /-- PRESENT (R163): the step in which the check byte of an accepted PRESENT frame is taken. -/
  | present (ref : Byte) (token : Token)
  /-- CANCEL (R164): the step in which the check byte of an accepted CANCEL frame is taken. -/
  | cancel (ref : Byte)
  /-- QUERY (R165): the step in which the check byte of an accepted QUERY frame is taken. -/
  | query
  /-- RIDER_GAP_TIMEOUT (R161). -/
  | riderGapTimeout
  /-- TRANSMIT_COMPLETE (R166). -/
  | transmitComplete
  /-- TAKE_PRESENTATION (R12). -/
  | takePresentation
  /-- VERIFICATION_END (R15). -/
  | verificationEnd
  /-- HELD_CANCEL_APPLY (R21). -/
  | heldCancelApply
  /-- BASELINE_RISE (R114). -/
  | baselineRise (dock : DockNo)
  /-- BASELINE_RESET (R115). -/
  | baselineReset (dock : DockNo)
  /-- CHANNEL_TIMEOUT (R138). -/
  | channelTimeout (rail : RailId)
  /-- CLOSING_TIMEOUT (R136). -/
  | closingTimeout (rail : RailId)
  /-- CONTROLLER_ABORT (R140). -/
  | controllerAbort (rail : RailId)
  /-- CHANNEL_OUTCOME (R141). -/
  | channelOutcome (rail : RailId)
  /-- QUIET_COUNT_RESTORE (R149). -/
  | quietCountRestore (rail : RailId)
  /-- ARBITER_HANDOFF (R150). -/
  | arbiterHandoff (rail : RailId)
  /-- SILENT_REPORT (R129). -/
  | silentReport (dock : DockNo)
  /-- FIRST_CODE_EVENT (R49). -/
  | firstCodeEvent (dock : DockNo)
  /-- CHANGE_EVENT (R44). -/
  | changeEvent (dock : DockNo)
  /-- PRESENT_EVENT (R118). -/
  | presentEvent (dock : DockNo)
  /-- ABSENT_EVENT (R118). -/
  | absentEvent (dock : DockNo)
  /-- POOR_DOCK (R105). -/
  | poorDock (dock : DockNo)
  /-- GRANTLESS_RELOCK_DEADLINE (R45). -/
  | grantlessRelockDeadline (dock : DockNo)
  /-- GRANT_CONFIRM_EXPIRY (R70). -/
  | grantConfirmExpiry (grant : Byte)
  /-- PULL_DEADLINE_EXPIRY (R77). -/
  | pullDeadlineExpiry (grant : Byte)
  /-- RELOCK_DEADLINE_EXPIRY (R78). -/
  | relockDeadlineExpiry (grant : Byte)
  /-- TRAIN_DEADLINE_EXPIRY (R153). -/
  | trainDeadlineExpiry (rail : RailId)
  /-- SWEEP_END (R155). -/
  | sweepEnd (rail : RailId)
  /-- RIDER_BYTE_RECEIVED (R160): a byte of the rider link and whether its stop bit read 1 (R159). -/
  | riderByteReceived (byte : Byte) (stopBit : Bool)
deriving DecidableEq, Repr

end Sys2Proof
end

