-- ==== Sys2Proof/Decode.lean ====
section
/-! DEFINITION. The reading of a word by the bits of spec/opcode_table.json. The table gives no row any bits: the HD48
takes its commands as requests, frames, pins and events, and no word spells one (entry 20). -/

namespace Sys2Proof

/-- The command that a word of the opcode table spells: none, since no row of the table has bits. -/
def decodeTableWord (_nbits _w : Nat) : Option Instr := none

end Sys2Proof
end

