-- ==== Sys2Proof/Machine/Operands.lean ====
section
/-!
DEFINITION. The operand encodings of the station link (spec/13_formats.md, Operand encoding) and the settings table
(spec/11, The settings): which byte names which dock, slot, rail, condition or pattern, and each setting's number,
range and factory value.
-/

namespace Sys2Proof.Machine

/-- R58: the patterns of a lamp. -/
inductive Pattern where
  | off | steady | slow | fast
deriving DecidableEq, Repr

/-- R41: the condition of a bike. -/
inductive Condition where
  | ok | reported
deriving DecidableEq, Repr

/-- R3: the two key slots. -/
inductive Slot where
  | a | b
deriving DecidableEq, Repr

/-- A dock operand: 1 to 48 name docks; every other value is outside the range. -/
def dockOf (n : Nat) : Option DockNo :=
  if h : 1 ≤ n ∧ n ≤ 48 then some ⟨n - 1, by omega⟩ else none

/-- A dock operand of a request, as its byte. -/
def dockOperand (b : Byte) : Option DockNo := dockOf b.toNat

/-- A slot operand: 1 for A, 2 for B. -/
def slotOperand (b : Byte) : Option Slot :=
  if b = 1#8 then some .a else if b = 2#8 then some .b else none

/-- A rail operand: 1 for A, 2 for B. -/
def railOperand (b : Byte) : Option RailId :=
  if b = 1#8 then some .a else if b = 2#8 then some .b else none

/-- A condition operand: 1 for OK, 2 for REPORTED. -/
def conditionOperand (b : Byte) : Option Condition :=
  if b = 1#8 then some .ok else if b = 2#8 then some .reported else none

/-- A pattern operand: 0 OFF, 1 STEADY, 2 SLOW, 3 FAST. -/
def patternOperand (b : Byte) : Option Pattern :=
  if b = 0#8 then some .off else if b = 1#8 then some .steady else if b = 2#8 then some .slow
  else if b = 3#8 then some .fast else none

/-- The code of a pattern, as on the station link and as the argument of a LAMP. -/
def Pattern.code : Pattern → Byte
  | .off => 0#8
  | .steady => 1#8
  | .slow => 2#8
  | .fast => 3#8

/-- The code of a condition on the station link. -/
def Condition.code : Condition → Byte
  | .ok => 1#8
  | .reported => 2#8

/-- R7: an account id lies in 1 to FFFFFFFE hex. -/
def accountInRange (id : Word) : Bool := id != 0#32 && id != 0xFFFFFFFF#32

/-- The working settings of the Settings Store other than SAMPLE_DELAY, which is the delay of the dock's head
(R181). Bit n − 1 of `fitted` says that dock n is fitted. -/
structure Settings where
  stationGroup : Nat
  fitted : BitVec 48
  bikeThreshold : Nat
  hysteresis : Nat
  noiseThreshold : Nat
  negNoise : Nat
  lowResetScans : Nat
  bucket : Nat
  debounce : Nat
  seedOffset : Nat
  pullWindow : Nat
  confirmTimeout : Nat
  channelTimeout : Nat
  seatTimeout : Nat
  holdoverGrowth : Nat
  uncertaintyLimit : Nat
  setUncertainty : Nat
  linkSilence : Nat
deriving DecidableEq, Repr

/-- The factory values of the settings table. -/
def Settings.factory : Settings where
  stationGroup := 1
  fitted := 0xFFFFFFFFFFFF#48
  bikeThreshold := 400
  hysteresis := 60
  noiseThreshold := 80
  negNoise := 50
  lowResetScans := 20
  bucket := 100
  debounce := 3
  seedOffset := 600
  pullWindow := 20
  confirmTimeout := 300
  channelTimeout := 25
  seatTimeout := 10
  holdoverGrowth := 20
  uncertaintyLimit := 30000
  setUncertainty := 500
  linkSilence := 30

/-- The factory value of every SAMPLE_DELAY. -/
def factoryDelay : Nat := 8

/-- The settings by name, in the order of the settings table. -/
inductive SettingName where
  | stationGroup | fitted | sampleDelay | bikeThreshold | hysteresis | noiseThreshold | negNoise | lowResetScans
  | bucket | debounce | seedOffset | pullWindow | confirmTimeout | channelTimeout | seatTimeout | holdoverGrowth
  | uncertaintyLimit | setUncertainty | linkSilence
deriving DecidableEq, Repr

/-- spec/13_formats.md: settings are numbered 1 to 19 in the order of the settings table. -/
def settingOperand (b : Byte) : Option SettingName :=
  match b.toNat with
  | 1 => some .stationGroup
  | 2 => some .fitted
  | 3 => some .sampleDelay
  | 4 => some .bikeThreshold
  | 5 => some .hysteresis
  | 6 => some .noiseThreshold
  | 7 => some .negNoise
  | 8 => some .lowResetScans
  | 9 => some .bucket
  | 10 => some .debounce
  | 11 => some .seedOffset
  | 12 => some .pullWindow
  | 13 => some .confirmTimeout
  | 14 => some .channelTimeout
  | 15 => some .seatTimeout
  | 16 => some .holdoverGrowth
  | 17 => some .uncertaintyLimit
  | 18 => some .setUncertainty
  | 19 => some .linkSilence
  | _ => none

/-- The least and the greatest value of each setting. Every set of docks lies in the range of FITTED (R181). -/
def SettingName.range : SettingName → Nat × Nat
  | .stationGroup => (0, 65534)
  | .fitted => (0, 281474976710655)
  | .sampleDelay => (0, 31)
  | .bikeThreshold => (20, 4000)
  | .hysteresis => (0, 255)
  | .noiseThreshold => (3, 255)
  | .negNoise => (3, 255)
  | .lowResetScans => (1, 255)
  | .bucket => (1, 255)
  | .debounce => (1, 15)
  | .seedOffset => (0, 4000)
  | .pullWindow => (5, 60)
  | .confirmTimeout => (50, 1000)
  | .channelTimeout => (5, 100)
  | .seatTimeout => (2, 60)
  | .holdoverGrowth => (1, 255)
  | .uncertaintyLimit => (100, 60000)
  | .setUncertainty => (0, 5000)
  | .linkSilence => (5, 255)

/-- A value that lies outside its range is replaced by the nearest bound of the range (spec/00_scope.md,
Conventions). -/
def clamp (range : Nat × Nat) (v : Nat) : Nat := max range.1 (min range.2 v)

/-- R181: STATION_GROUP, FITTED and SAMPLE_DELAY may be written in service state alone. -/
def SettingName.inServiceOnly : SettingName → Bool
  | .stationGroup | .fitted | .sampleDelay => true
  | _ => false

/-- R116: NOISE_THRESHOLD < BIKE_THRESHOLD − HYSTERESIS − 5, with no intermediate value below zero lost. -/
def Settings.thresholdsOk (w : Settings) : Bool := w.noiseThreshold + w.hysteresis + 5 < w.bikeThreshold

/-- R181 step 5: the settings whose write is tested against the constraint of R116. -/
def SettingName.constrained : SettingName → Bool
  | .bikeThreshold | .hysteresis | .noiseThreshold => true
  | _ => false

/-- The settings with one value written; SAMPLE_DELAY is written at the head (R181). -/
def Settings.write (w : Settings) (n : SettingName) (v : Nat) : Settings :=
  match n with
  | .stationGroup => { w with stationGroup := v }
  | .fitted => { w with fitted := BitVec.ofNat 48 v }
  | .sampleDelay => w
  | .bikeThreshold => { w with bikeThreshold := v }
  | .hysteresis => { w with hysteresis := v }
  | .noiseThreshold => { w with noiseThreshold := v }
  | .negNoise => { w with negNoise := v }
  | .lowResetScans => { w with lowResetScans := v }
  | .bucket => { w with bucket := v }
  | .debounce => { w with debounce := v }
  | .seedOffset => { w with seedOffset := v }
  | .pullWindow => { w with pullWindow := v }
  | .confirmTimeout => { w with confirmTimeout := v }
  | .channelTimeout => { w with channelTimeout := v }
  | .seatTimeout => { w with seatTimeout := v }
  | .holdoverGrowth => { w with holdoverGrowth := v }
  | .uncertaintyLimit => { w with uncertaintyLimit := v }
  | .setUncertainty => { w with setUncertainty := v }
  | .linkSilence => { w with linkSilence := v }

/-- The working value of a setting; `delay` is the SAMPLE_DELAY of the dock the request names. -/
def Settings.read (w : Settings) (delay : Nat) : SettingName → Nat
  | .stationGroup => w.stationGroup
  | .fitted => w.fitted.toNat
  | .sampleDelay => delay
  | .bikeThreshold => w.bikeThreshold
  | .hysteresis => w.hysteresis
  | .noiseThreshold => w.noiseThreshold
  | .negNoise => w.negNoise
  | .lowResetScans => w.lowResetScans
  | .bucket => w.bucket
  | .debounce => w.debounce
  | .seedOffset => w.seedOffset
  | .pullWindow => w.pullWindow
  | .confirmTimeout => w.confirmTimeout
  | .channelTimeout => w.channelTimeout
  | .seatTimeout => w.seatTimeout
  | .holdoverGrowth => w.holdoverGrowth
  | .uncertaintyLimit => w.uncertaintyLimit
  | .setUncertainty => w.setUncertainty
  | .linkSilence => w.linkSilence

end Sys2Proof.Machine
end

