-- ==== Sys2Proof/Machine/Table.lean ====
section
/-!
DEFINITION. Tables of a fixed number of like things (the 48 docks, heads and filter records), built and mapped by
structural recursion over lists, so that Lean's kernel evaluates them.
-/

namespace Sys2Proof.Machine

/-- The dock numbers 1 to 48 in ascending order. -/
def allDocks : List DockNo := List.finRange 48

/-- The slots of the grant table in order. -/
def allSlots : List (Fin 8) := List.finRange 8

/-- A table of 48 made from what stands at each dock. -/
def tabulate {α : Type} (f : DockNo → α) : Vector α 48 := ⟨⟨(List.finRange 48).map f⟩, by simp⟩

/-- A table with one function applied to every entry. -/
def mapTable {α β : Type} {n : Nat} (f : α → β) (v : Vector α n) : Vector β n := ⟨⟨v.toList.map f⟩, by simp⟩

end Sys2Proof.Machine
end

