-- ==== Sys2Proof/Machine/State.lean ====
section
/-!
DEFINITION. The state of the HD48: every piece of state the spec gives its ten blocks, as plain data, and the state
after reset.

Fields marked MODEL are the model's own, not the spec's: they hold what a rule says happens within one step while the
event rows of the opcode table that belong to that step are still to be taken (NOTES.md, entry 2), or what the last
read selection clocked out.
-/

namespace Sys2Proof.Machine

/-! ## Faults and refusals -/

/-- No command of the HD48 stops the part: the spec gives every command an effect in every state. -/
inductive Fault where
deriving DecidableEq, Repr

/-- The reason for which a command is refused by the model. -/
inductive Refusal where
  /-- Raised by an arm of exec that has no meaning yet; safe, since nothing follows from a refusal. No arm of this
  model answers with it. -/
  | notModelled (mnemonic : String)
deriving DecidableEq, Repr

/-! ## Settings Store (spec/11) -/

/-- R3: what a present key slot holds. The 16 key bytes stand in slot order, the first the most significant. -/
structure KeySlot where
  epoch : Byte
  key : BitVec 128
deriving DecidableEq, Repr

/-- R182, R184, R189: the stored image with its check word. -/
structure Image where
  settings : Settings
  delays : Vector Nat 48
  keyA : Option KeySlot
  keyB : Option KeySlot
  trim : Nat
  check : Word
deriving DecidableEq, Repr

/-- R182: the values a store captured at its start, and the ms ticks since (MODEL: the spec bounds them by 150). -/
structure StoreRun where
  captured : Image
  ticks : Nat
deriving DecidableEq, Repr

/-- The Settings Store. SAMPLE_DELAY is the delay of each head (R181). -/
structure SettingsStore where
  /-- Working settings. -/
  work : Settings
  image : Image
  /-- Store-busy flag. -/
  busy : Bool
  /-- Store in progress. -/
  store : Option StoreRun
  fromFactory : Bool
  /-- Service state: true for IN_SERVICE. -/
  inService : Bool
  cause : ResetCause
deriving DecidableEq, Repr

/-! ## Station Link Port (spec/10) -/

/-- R169: the port state. -/
inductive PortState where
  | idle | working | answered
deriving DecidableEq, Repr

/-- The ten response codes, in the order of their table. -/
inductive RespCode where
  | ok | okClamped | badFrame | badRequest | badValue | badState | notFound | full | busy | timeBackward
deriving DecidableEq, Repr

/-- A response: its status code and its body bytes. -/
structure Response where
  code : RespCode
  body : List Byte
deriving DecidableEq, Repr

/-- The Station Link Port. -/
structure LinkPort where
  port : PortState
  /-- Request buffer: the request being worked. -/
  request : Option Request
  /-- Response buffer. -/
  response : Option Response
  /-- Silence count. -/
  silence : Nat
  /-- MODEL: the silence count reached its limit at the last ms tick while ONLINE, and LINK_SILENCE_EXPIRY is due. -/
  silenceDue : Bool
  /-- Link state: true for ONLINE. -/
  online : Bool
  /-- The READY output. -/
  ready : Bool
  /-- MODEL: the bytes the last read selection clocked out. -/
  clockedOut : List Byte
deriving DecidableEq, Repr

/-! ## Station Clock (spec/02) -/

/-- R28: the clock states. -/
inductive ClockState where
  | unset | free | locking | locked | holdover
deriving DecidableEq, Repr

/-- R33: a pending aligned set. -/
structure AlignedSet where
  seconds : Nat
  forcedBack : Bool
  expiry : Nat
deriving DecidableEq, Repr

/-- The Station Clock. -/
structure Clock where
  /-- T, the trim. -/
  trim : Nat
  /-- a, the fraction accumulator, before the fraction of the millisecond in progress is added. -/
  acc : Nat
  /-- MODEL: the trim with which the millisecond in progress began, which keeps its length (R22). -/
  msTrim : Nat
  /-- MODEL: the cycles of the millisecond in progress that lie before the last pulse within it. -/
  elapsed : Nat
  /-- Pulse count: cycles from the pulse that started counting to the last tick or pulse; none while stopped. -/
  pulse : Option Nat
  /-- S, the station second. -/
  sec : Nat
  /-- m, the millisecond within the second. -/
  ms : Nat
  /-- U, the uncertainty. -/
  unc : Nat
  /-- Lu, the label uncertainty. -/
  labelUnc : Nat
  /-- k, the lock count. -/
  k : Nat
  /-- Whether the clock is labelled (R28). -/
  labelled : Bool
  /-- Locked-since-label mark. -/
  lockedMark : Bool
  /-- Clock state, derived by R28. -/
  state : ClockState
  /-- Absence count. -/
  absence : Nat
  /-- Growth count. -/
  growth : Nat
  /-- MODEL: the growth count reached its limit at the last ms tick, and GROWTH_STEP is due. -/
  growthDue : Bool
  /-- H, the high-water time. -/
  high : Nat
  /-- E, the ms ticks since reset. -/
  ticks : Nat
  aligned : Option AlignedSet
deriving DecidableEq, Repr

/-! ## Token Check Unit (spec/01) -/

/-- A presentation: the reference the radio module chose and the token. -/
structure Presentation where
  ref : Byte
  token : Token
deriving DecidableEq, Repr

/-- R12: the presentation under check. `refInUse` is the test of R14 made when the check began; `ticks` (MODEL) counts
the ms ticks since, which R12 bounds by 2. -/
structure Check where
  pres : Presentation
  refInUse : Bool
  ticks : Nat
deriving DecidableEq, Repr

/-- The Token Check Unit, but for the spent list, which stands with the grants it names (`Pillar.spent`). -/
structure Tcu where
  keyA : Option KeySlot
  keyB : Option KeySlot
  /-- Deny list, ascending. -/
  deny : List Word
  /-- M, the restart mark. -/
  mark : Nat
  /-- Check state: none is IDLE, some is CHECKING. -/
  check : Option Check
  /-- Held station request. -/
  held : Option Request
  /-- Held cancel: the ref of the presentation it is for. -/
  heldCancel : Option Byte
deriving DecidableEq, Repr

/-! ## Rider Link Port (spec/09) -/

/-- R160: the receiver states. -/
inductive RxState where
  | hunt | length | body | check
deriving DecidableEq, Repr

/-- The receiver and the presentation inbox of the Rider Link Port. The output side is `Pillar.out` and
`Pillar.tx`. -/
structure RiderRx where
  state : RxState
  /-- Frame in assembly: its length, its running sum, and the kind and body bytes received so far. -/
  len : Nat
  sum : Byte
  bytes : List Byte
  /-- Gap count. -/
  gap : Nat
  /-- Presentation inbox, oldest first. -/
  inbox : List Presentation
deriving DecidableEq, Repr

/-- R167: the reasons of a VERDICT, in the order their codes take. -/
inductive Reason where
  | none | malformed | keyUnknown | tagBad | wrongStation | clock | restarted | early | expired | offline | denied
  | replayed | accountBusy | suspended | busy | dockUnavailable | noBike | cancelled
deriving DecidableEq, Repr

/-- R167: the outcomes of an OUTCOME frame. -/
inductive RiderOutcome where
  | released | notTaken | failed | cancelled | moved
deriving DecidableEq, Repr

/-- R166: what waits in the output queue. An AVAILABILITY waits without contents (R165). -/
inductive OutFrame where
  | verdict (ref : Byte) (granted : Bool) (dock grant : Nat) (reason : Reason) (repeated : Bool)
  | outcome (ref : Byte) (outcome : RiderOutcome) (dock : DockNo)
  | availability
deriving DecidableEq, Repr

/-- R166: a frame in transmission, its contents fixed. -/
inductive SentFrame where
  | verdict (ref : Byte) (granted : Bool) (dock grant : Nat) (reason : Reason) (repeated : Bool)
  | outcome (ref : Byte) (outcome : RiderOutcome) (dock : DockNo)
  | availability (standard assisted free : Nat) (suspended offline clockUsable : Bool)
deriving DecidableEq, Repr

/-! ## Dock Manager (spec/03, spec/05) -/

/-- R40: the dock states. -/
inductive DockState where
  | unfitted | silent | empty | returning | docked | releasing | open | relocking | fault
deriving DecidableEq, Repr

/-- R40: the causes of a FAULT. -/
inductive FaultCause where
  | jammed | unreachable
deriving DecidableEq, Repr

/-- A bike's tag: 8 bytes, byte 0 the most significant. -/
abbrev Tag := BitVec 64

/-- R41: the class of a bike. -/
inductive BikeClass where
  | standard | assisted
deriving DecidableEq, Repr

/-- R41: a bike record. -/
structure Bike where
  tag : Option Tag
  cls : BikeClass
  condition : Condition
deriving DecidableEq, Repr

/-- R40: a hold. -/
inductive Hold where
  | reserve (id : Byte) (expiry : Nat)
  | service
deriving DecidableEq, Repr

/-- R40: a lamp source. -/
inductive LampSource where
  | auto
  | direct (pattern : Pattern)
deriving DecidableEq, Repr

/-- R96, R97: an owed return: the tag and the two detail flags of its RETURN record, whose dock is the dock that owes
it. -/
structure OwedReturn where
  tag : Option Tag
  notSensed : Bool
  intoService : Bool
deriving DecidableEq, Repr

/-- R45: a relock without a grant. -/
structure Relock where
  attempt : Nat
  deadline : Option Nat
deriving DecidableEq, Repr

/-- R90: the two kinds of an identification. -/
inductive IdentKind where
  | ret | recovery
deriving DecidableEq, Repr

/-- R90: an identification in progress. -/
structure Ident where
  kind : IdentKind
  attempt : Nat
deriving DecidableEq, Repr

/-- R40: a dock record. -/
structure Dock where
  state : DockState
  cause : Option FaultCause
  bike : Option Bike
  hold : Option Hold
  grant : Option Nat
  lamp : LampSource
  owed : Option OwedReturn
  recovery : Bool
  /-- Seat watch: the POOR_DOCK timer while it runs, none while it is stopped. -/
  watch : Option Nat
  /-- Poor-dock flag of the current presence episode. -/
  poor : Bool
  relock : Option Relock
  ident : Option Ident
deriving DecidableEq, Repr

/-- R59, R61: a dock record with no field present. -/
def Dock.fresh (state : DockState) : Dock where
  state := state
  cause := none
  bike := none
  hold := none
  grant := none
  lamp := .auto
  owed := none
  recovery := false
  watch := none
  poor := false
  relock := none
  ident := none

/-! ## Presence Filter (spec/06) -/

/-- R108: a filter record. -/
structure Filter where
  initialised : Bool
  base : Nat
  bucket : Nat
  lowRun : Nat
  onRun : Nat
  offRun : Nat
  present : Bool
  lastRaw : Option Nat
deriving DecidableEq, Repr

/-- R120: a filter record after reset. -/
def Filter.fresh : Filter where
  initialised := false
  base := 0
  bucket := 0
  lowRun := 0
  onRun := 0
  offRun := 0
  present := false
  lastRaw := none

/-! ## Rail Controllers (spec/07, spec/08) -/

/-- R124: the status codes of a head. -/
inductive Code where
  | restEmpty | restHeld | open | jammed | training
deriving DecidableEq, Repr

/-- R152: the last training result of a head. -/
inductive TrainResult where
  | none | passed | failed
deriving DecidableEq, Repr

/-- R132: the per-head state. -/
structure Head where
  confirmed : Option Code
  candidate : Option Code
  missed : Nat
  delay : Nat
  lastTraining : TrainResult
  /-- R158: stray TRAIN_OFF outstanding. -/
  stray : Bool
deriving DecidableEq, Repr

/-- R142: the commands of rail messages, with what each message carries beside its head: the grant whose RELEASE it
is (R145), the pattern of a LAMP, and whether a TRAIN_OFF is the Rail Controller's own (R158). -/
inductive Cmd where
  | release (grant : Nat)
  | relock
  | lamp (pattern : Pattern)
  | tagRead
  | trainOn
  | trainOff (stray : Bool)
deriving DecidableEq, Repr

/-- R145: a rail message. The head is named by its dock. -/
structure Msg where
  cmd : Cmd
  dock : DockNo
deriving DecidableEq, Repr

/-- R145: the four source queues. -/
inductive Source where
  | safety | station | rider | upkeep
deriving DecidableEq, Repr

/-- R133: the channel states. -/
inductive ChanState where
  | idle | offerFirst | gap | offer | ending | closing
deriving DecidableEq, Repr

/-- R69: the channel outcomes. -/
inductive ChanOutcome where
  | done | aborted | timeout | echoError
deriving DecidableEq, Repr

/-- R140: the state of a controller abort: none, asked for and waiting for a frame end, or due at the frame end just
made (MODEL). -/
inductive AbortState where
  | none | asked | due
deriving DecidableEq, Repr

/-- MODEL: a timeout the last frame end brought, whose event row is still to be taken. -/
inductive ChanDue where
  | none | timeout | closing
deriving DecidableEq, Repr

/-- R133 to R141: the message channel of a rail. -/
structure Channel where
  state : ChanState
  /-- Channel message, with the source queue it came from. After the channel has entered IDLE the message stands here
  until CHANNEL_OUTCOME delivers its outcome. -/
  msg : Option (Msg × Source)
  /-- Byte position, 1 to 12. -/
  pos : Nat
  /-- Timeout count of the byte offered. -/
  timeout : Nat
  /-- TAKE as read in the frame before, when that frame was one of this byte's offer. -/
  offerTake : Option Bool
  /-- Whether the frame before, of this message and after its first acknowledgement, read TAKE inactive (R137); in
  CLOSING, whether the CLOSING frame before did (R136). -/
  dropped : Bool
  /-- Decided outcome. -/
  outcome : Option ChanOutcome
  /-- Frames of ENDING or of CLOSING so far. -/
  frames : Nat
  /-- Replies kept to the pull bytes of a TAG_READ, in order (R139). -/
  replies : List Byte
  /-- Whether the requester has withdrawn its interest, so that the outcome is discarded (R91, R140, R141). -/
  orphan : Bool
  abort : AbortState
  due : ChanDue
deriving DecidableEq, Repr

/-- R144: the channel with no message. -/
def Channel.idle : Channel where
  state := .idle
  msg := none
  pos := 0
  timeout := 0
  offerTake := none
  dropped := false
  outcome := none
  frames := 0
  replies := []
  orphan := false
  abort := .none
  due := .none

/-- R125: why the frame in progress scans its head; vacant when the rail has no fitted head (R127). -/
inductive ScanKind where
  | pair | training | sweep | roundRobin | vacant
deriving DecidableEq, Repr

/-- R122, R125: the scan of the frame in progress. -/
structure Scan where
  addr : Nat
  kind : ScanKind
deriving DecidableEq, Repr

/-- R125: a priority pair running, and whether its first scan has been made. -/
structure Pair where
  dock : DockNo
  firstMade : Bool
deriving DecidableEq, Repr

/-- R152: the steps of the training of a head. -/
inductive TrainStep where
  | on | sweep | off
deriving DecidableEq, Repr

/-- R152 to R156: the training running on a rail. -/
structure Training where
  /-- The head under training. -/
  dock : DockNo
  step : TrainStep
  attempt : Nat
  /-- Confirm deadline of the step. -/
  deadline : Option Nat
  /-- Sweep scans made, 0 to 64; the trial delay is half of it. -/
  scans : Nat
  /-- Whether the first scan at the trial delay in progress was good. -/
  firstGood : Bool
  /-- Good delays found so far, bit n for delay n. -/
  good : BitVec 32
  /-- The result decided by R153 or R155. -/
  result : TrainResult
deriving DecidableEq, Repr

/-- A Rail Controller. -/
structure Rail where
  /-- Round-robin pointer, 0 to 24. -/
  pointer : Nat
  pair : Option Pair
  /-- Attention seen: the fitted head named by the attention field of the last frame. -/
  attention : Option DockNo
  /-- The frame in progress. -/
  scan : Scan
  /-- MODEL: the delay with which the frame in progress reads its scan reply, as it stood when the frame began: a delay
  changed within a frame is used from the next frame that reads the head (R132, R151). -/
  scanDelay : Nat
  /-- MODEL: the delay with which the frame in progress reads its channel reply, as it stood when the frame began. -/
  chanDelay : Nat
  /-- MODEL: a frame has ended and the next is still to be scheduled (R125), once the events of its end are taken. -/
  frameDue : Bool
  chan : Channel
  /-- q, the quiet count. -/
  quiet : Nat
  safety : List Msg
  station : List Msg
  rider : List Msg
  upkeep : List Msg
  /-- STATION level: true for LOWERED. -/
  stationLow : Bool
  /-- RIDER level: true for LOWERED. -/
  riderLow : Bool
  training : Option Training
  /-- MODEL: the quiet count rose to 8 at the last frame end, and QUIET_COUNT_RESTORE is due. -/
  restoreDue : Bool
  /-- MODEL: the channel was IDLE throughout the frame just ended, and ARBITER_HANDOFF is due. -/
  arbiterDue : Bool
  /-- MODEL: a code was confirmed at the last frame end and is still to be delivered: the dock, and whether it is the
  head's first code (R131). -/
  codeDue : Option (DockNo × Bool)
  /-- MODEL: a missed-scan count reached 8 at the last frame end, and SILENT_REPORT is due. -/
  silentDue : Option DockNo
  /-- MODEL: a presence flag turned at the last frame end: the dock, and whether it turned present. -/
  presenceDue : Option (DockNo × Bool)
deriving DecidableEq, Repr

/-- R144, R152: a Rail Controller after reset. The first frame is scheduled as any other. -/
def Rail.fresh : Rail where
  pointer := 0
  pair := none
  attention := none
  scan := { addr := 1, kind := .vacant }
  scanDelay := 0
  chanDelay := 0
  frameDue := true
  chan := .idle
  quiet := Config.quietMax
  safety := []
  station := []
  rider := []
  upkeep := []
  stationLow := false
  riderLow := false
  training := none
  restoreDue := false
  arbiterDue := false
  codeDue := none
  silentDue := none
  presenceDue := none

/-! ## Grant Engine (spec/04) -/

/-- R62: the phases of a grant. -/
inductive Phase where
  | queued | sending | confirming | open | relock
deriving DecidableEq, Repr

/-- R62: the causes of a relock. -/
inductive RelockCause where
  | pull | cancel | emptied
deriving DecidableEq, Repr

/-- R62: the fields a RIDER grant has from its presentation. -/
structure RiderPart where
  ref : Byte
  account : Word
  serial : Word
  bikeClass : Byte
deriving DecidableEq, Repr

/-- R62: an active grant. Its origin is RIDER when `rider` is present and STATION when it is absent. -/
structure Grant where
  id : Nat
  dock : DockNo
  rider : Option RiderPart
  phase : Phase
  attempts : Nat
  moved : Bool
  cancelPending : Bool
  cause : Option RelockCause
  latePull : Bool
  /-- The confirm, pull or relock confirm deadline the phase runs, in ms ticks left. -/
  timer : Option Nat
deriving DecidableEq, Repr

/-- R9: an entry of the spent list. -/
structure SpentEntry where
  serial : Word
  notAfter : Nat
  grant : Option Nat
deriving DecidableEq, Repr

/-! ## Record Queue (spec/10) -/

/-- R87: the final outcomes of a grant. -/
inductive FinalOutcome where
  | released | notTaken | failed | cancelled
deriving DecidableEq, Repr

/-- R88: the details of a grant-ending record, in the order of their values. -/
inductive Detail where
  | pulled | latePull | openNotSeen | jammed | relockFailed | relocked | beforeSend | unreachable | silent
  | latchUnknown
deriving DecidableEq, Repr

/-- R48: the causes of a DOCK_FAULT record. -/
inductive DockFaultCause where
  | jammed | unreachable | silent
deriving DecidableEq, Repr

/-- R176: the kinds of record with their fields. -/
inductive RecordBody where
  | start (cause : ResetCause)
  | grantEnd (outcome : FinalOutcome) (grant : Nat) (dock : DockNo) (tag : Option Tag)
      (holder : Option (Word × Word)) (detail : Detail)
  | ret (dock : DockNo) (tag : Option Tag) (notSensed intoService : Bool)
  | poorDock (dock : DockNo)
  | bikeMissing (dock : DockNo) (tag : Option Tag)
  | dockFault (dock : DockNo) (cause : DockFaultCause)
  | dockRecovered (dock : DockNo) (tag : Option Tag)
  | reservationLapsed (dock : DockNo) (id : Byte)
  | clock (state : ClockState)
deriving DecidableEq, Repr

/-- R176: a record with its time, absent while the clock is UNSET. -/
structure Record where
  time : Option Nat
  body : RecordBody
deriving DecidableEq, Repr

/-! ## The whole -/

/-- The structures that the dock, grant and rail events change together: the Dock Manager, the Presence Filter, both
Rail Controllers, the Grant Engine, the spent list of the TCU, the output side of the Rider Link Port and the Record
Queue. Its functions cannot touch the other blocks, so that a frame over those blocks holds by type. -/
structure Pillar where
  /-- R40: the dock table. -/
  docks : Vector Dock 48
  /-- R42: the Dock Order List, oldest-docked first. -/
  order : List DockNo
  /-- R59: the fitted set in force. -/
  fitted : BitVec 48
  /-- R108: the filter records. -/
  filters : Vector Filter 48
  /-- R132: the per-head state of both rails, by dock. -/
  heads : Vector Head 48
  /-- R62: the grant table. -/
  grants : Vector (Option Grant) 8
  /-- R63: the grant id counter. -/
  lastGrant : Nat
  /-- R86: the suspend flag. -/
  suspended : Bool
  railA : Rail
  railB : Rail
  /-- R9: the spent list. -/
  spent : List SpentEntry
  /-- R166: the output queue, oldest first. -/
  out : List OutFrame
  /-- R166: the frame in transmission. -/
  tx : Option SentFrame
  /-- R176: the Record Queue, oldest first. -/
  records : List Record
  /-- R177: OVERFLOW. -/
  overflow : Bool
  /-- R179: the ATTENTION output. -/
  attention : Bool
deriving DecidableEq, Repr

/-- The state of the HD48, and the queue of the commands that wait, the first to be taken at the front. -/
structure State where
  pending : List Instr
  store : SettingsStore
  link : LinkPort
  clock : Clock
  tcu : Tcu
  rider : RiderRx
  pillar : Pillar
deriving DecidableEq, Repr

/-! ## Reset (R184 and the After reset rules of each chapter) -/

/-- R38: the Station Clock after reset, at the trim loaded. -/
def Clock.boot (trim : Nat) : Clock where
  trim := trim
  acc := 0
  msTrim := trim
  elapsed := 0
  pulse := none
  sec := 0
  ms := 0
  unc := Config.uncertaintyMax
  labelUnc := 0
  k := 0
  labelled := false
  lockedMark := false
  state := .unset
  absence := 0
  growth := 0
  growthDue := false
  high := 0
  ticks := 0
  aligned := none

/-- R180: the Station Link Port after reset. -/
def LinkPort.boot : LinkPort where
  port := .idle
  request := none
  response := none
  silence := 0
  silenceDue := false
  online := false
  ready := false
  clockedOut := []

/-- R168: the receiver and the inbox after reset. -/
def RiderRx.boot : RiderRx where
  state := .hunt
  len := 0
  sum := 0#8
  bytes := []
  gap := 0
  inbox := []

/-- R61, R89, R120, R144, R168, R180: the blocks of the pillar after reset, with the START record in the queue. -/
def Pillar.boot (cause : ResetCause) (fitted : BitVec 48) (delays : Vector Nat 48) : Pillar where
  docks := tabulate (fun d => .fresh (if fitted.getLsbD d.val then .silent else .unfitted))
  order := []
  fitted := fitted
  filters := Vector.replicate 48 .fresh
  heads := tabulate (fun d =>
    { confirmed := none, candidate := none, missed := 0, delay := delays[d], lastTraining := .none, stray := false })
  grants := Vector.replicate 8 none
  lastGrant := 0
  suspended := false
  railA := .fresh
  railB := .fresh
  spent := []
  out := []
  tx := none
  records := [{ time := none, body := .start cause }]
  overflow := false
  attention := true

/-- R184: the part as it starts, from its stored image when the check word is good and from the factory values
otherwise. The image is kept as it is, and commands that wait are outside the part. -/
def State.boot (cause : ResetCause) (image : Image) (good : Bool) (pending : List Instr) : State :=
  let settings := if good then image.settings else Settings.factory
  let delays := if good then image.delays else Vector.replicate 48 factoryDelay
  { pending := pending
    store :=
      { work := settings, image := image, busy := false, store := none, fromFactory := !good, inService := false,
        cause := cause }
    link := .boot
    clock := .boot (if good then image.trim else Config.trimNominal)
    tcu :=
      { keyA := if good then image.keyA else none, keyB := if good then image.keyB else none, deny := [], mark := 0,
        check := none, held := none, heldCancel := none }
    rider := .boot
    pillar := .boot cause settings.fitted delays }

/-- DESIGN CHOICE (entry 3): the stored image of a part in which no store has completed: factory contents under a
check word of 0, which is not good. -/
def Image.blank : Image where
  settings := Settings.factory
  delays := Vector.replicate 48 factoryDelay
  keyA := none
  keyB := none
  trim := Config.trimNominal
  check := 0#32

/-- The part right after a POWER_ON reset with no good stored image (R184), and no command waiting. -/
def State.reset : State := State.boot .powerOn .blank false []

end Sys2Proof.Machine
end

