-- ==== Sys2Proof/Machine/Formats.lean ====
section
/-!
DEFINITION. The byte layouts and check computations of spec/13_formats.md: the remainder procedure of R2, the token, the
frames of both links, the rail messages, the records, and the contents the check word of the stored image covers.
-/

namespace Sys2Proof.Machine

/-! ## Numbers -/

/-- A number as `width` bytes, most significant byte first. -/
def beBytes : Nat → Nat → List Byte
  | 0, _ => []
  | width + 1, v => BitVec.ofNat 8 (v / 256 ^ width) :: beBytes width v

/-- The number that bytes carry, most significant byte first. -/
def beNat (bytes : List Byte) : Nat := bytes.foldl (fun acc b => acc * 256 + b.toNat) 0

/-- A flag as a byte: 1 when set. -/
def flagByte (b : Bool) : Byte := if b then 1#8 else 0#8

/-- A number carried in one byte. -/
def numByte (n : Nat) : Byte := BitVec.ofNat 8 n

/-- An optional field of `width` bytes: a presence byte, and zeros when it is absent. -/
def optBytes (width : Nat) : Option (List Byte) → List Byte
  | some bytes => 1#8 :: bytes
  | none => 0#8 :: List.replicate width 0#8

/-! ## Checks (R2, R187, R188) -/

/-- R2: one shift of the remainder. -/
def crcShift (r : Word) : Word := if r.getLsbD 0 then (r >>> 1) ^^^ 0xEDB88320#32 else r >>> 1

/-- R2: one byte taken into the remainder. -/
def crcByte (r : Word) (b : Byte) : Word :=
  crcShift (crcShift (crcShift (crcShift (crcShift (crcShift (crcShift (crcShift (r ^^^ b.setWidth 32))))))))

/-- R2: the remainder procedure over a list of bytes, inverted at the end. -/
def crc32 (bytes : List Byte) : Word := ~~~ (bytes.foldl crcByte 0xFFFFFFFF#32)

/-- The sum of bytes mod 256. -/
def byteSum (bytes : List Byte) : Byte := bytes.foldl (· + ·) 0#8

/-- R187: the check byte that makes the sum of the bytes and itself 0 mod 256. -/
def checkByte (bytes : List Byte) : Byte := 0#8 - byteSum bytes

/-- R188: the message check. -/
def messageCheck (command argument : Byte) : Byte := command + argument + 0x5A#8

/-- R188, R92: the tag check byte, 255 minus the sum of the eight tag bytes mod 256. -/
def tagCheck (bytes : List Byte) : Byte := 255#8 - byteSum bytes

/-! ## The token (R1, R2) -/

/-- R1: the 24 bytes of the token body. -/
def tokenBody (t : Token) : List Byte :=
  [t.format, t.epoch] ++ beBytes 2 t.group.toNat ++ beBytes 4 t.account.toNat ++ beBytes 4 t.serial.toNat
    ++ beBytes 4 t.notBefore.toNat ++ beBytes 4 t.notAfter.toNat ++ [t.flags, t.dock, t.bikeClass, t.ticket]

/-- R2: the tag of a token body under a key. -/
def tokenTag (key : BitVec 128) (t : Token) : Word := crc32 (beBytes 16 key.toNat ++ tokenBody t)

/-- The 28 bytes of a token as a PRESENT carries them. -/
def tokenBytes (t : Token) : List Byte := tokenBody t ++ beBytes 4 t.tag.toNat

/-- The token that 28 bytes carry. -/
def tokenOf (bytes : List Byte) : Token where
  format := bytes.getD 0 0#8
  epoch := bytes.getD 1 0#8
  group := BitVec.ofNat 16 (beNat ((bytes.drop 2).take 2))
  account := BitVec.ofNat 32 (beNat ((bytes.drop 4).take 4))
  serial := BitVec.ofNat 32 (beNat ((bytes.drop 8).take 4))
  notBefore := BitVec.ofNat 32 (beNat ((bytes.drop 12).take 4))
  notAfter := BitVec.ofNat 32 (beNat ((bytes.drop 16).take 4))
  flags := bytes.getD 20 0#8
  dock := bytes.getD 21 0#8
  bikeClass := bytes.getD 22 0#8
  ticket := bytes.getD 23 0#8
  tag := BitVec.ofNat 32 (beNat ((bytes.drop 24).take 4))

/-! ## Rider link frames -/

/-- What an accepted frame of the rider link asks for (R162). -/
inductive RiderRequest where
  | present (ref : Byte) (token : Token)
  | cancel (ref : Byte)
  | query
deriving DecidableEq, Repr

/-- R162: the request of a complete frame, from its kind and body bytes; none when its kind is not one the part
receives or its length is not the length that kind carries. -/
def riderRequestOf : List Byte → Option RiderRequest
  | kind :: body =>
    if kind = 1#8 ∧ body.length = 29 then some (.present (body.getD 0 0#8) (tokenOf (body.drop 1)))
    else if kind = 2#8 ∧ body.length = 1 then some (.cancel (body.getD 0 0#8))
    else if kind = 3#8 ∧ body.length = 0 then some .query
    else none
  | [] => none

/-- R167: the reasons take the values 0 to 17 in the order of the rule. -/
def Reason.code : Reason → Byte
  | .none => 0#8
  | .malformed => 1#8
  | .keyUnknown => 2#8
  | .tagBad => 3#8
  | .wrongStation => 4#8
  | .clock => 5#8
  | .restarted => 6#8
  | .early => 7#8
  | .expired => 8#8
  | .offline => 9#8
  | .denied => 10#8
  | .replayed => 11#8
  | .accountBusy => 12#8
  | .suspended => 13#8
  | .busy => 14#8
  | .dockUnavailable => 15#8
  | .noBike => 16#8
  | .cancelled => 17#8

/-- The outcome byte of an OUTCOME frame. -/
def RiderOutcome.code : RiderOutcome → Byte
  | .released => 1#8
  | .notTaken => 2#8
  | .failed => 3#8
  | .cancelled => 4#8
  | .moved => 5#8

/-- The kind and body of a frame the part sends. -/
def SentFrame.body : SentFrame → List Byte
  | .verdict ref granted dock grant reason repeated =>
    [0x81#8, ref, if granted then 1#8 else 2#8, numByte dock, numByte grant, reason.code, flagByte repeated]
  | .outcome ref result dock => [0x82#8, ref, result.code, numByte dock.number]
  | .availability standard assisted free suspended offline clockUsable =>
    [0x83#8, numByte standard, numByte assisted, numByte free,
      flagByte suspended + 2#8 * flagByte offline + 4#8 * flagByte clockUsable]

/-- A rider link frame around a kind and a body: the start byte, the length, the check byte (R187). -/
def riderFrame (body : List Byte) : List Byte :=
  let counted := numByte body.length :: body
  0xA5#8 :: counted ++ [checkByte counted]

/-- The bytes of a frame the part sends on the rider link. -/
def SentFrame.bytes (f : SentFrame) : List Byte := riderFrame f.body

/-! ## Station link frames -/

/-- The status codes take the values 0 to 9 in the order of the response code table. -/
def RespCode.code : RespCode → Byte
  | .ok => 0#8
  | .okClamped => 1#8
  | .badFrame => 2#8
  | .badRequest => 3#8
  | .badValue => 4#8
  | .badState => 5#8
  | .notFound => 6#8
  | .full => 7#8
  | .busy => 8#8
  | .timeBackward => 9#8

/-- A station link frame around a command or status byte and a body: the 2-byte length, then the check byte. -/
def stationFrame (content : List Byte) : List Byte :=
  let counted := beBytes 2 content.length ++ content
  counted ++ [checkByte counted]

/-- The bytes a read selection clocks out of a waiting response. -/
def Response.bytes (r : Response) : List Byte := stationFrame (r.code.code :: r.body)

/-- The ids of a DENY_ADD body, 4 bytes each. -/
def idsOf : Nat → List Byte → List Word
  | 0, _ => []
  | n + 1, bytes => BitVec.ofNat 32 (beNat (bytes.take 4)) :: idsOf n (bytes.drop 4)

/-- R169: the request of a command byte and a body; none when the command is not of the catalogue or the body is not
of the length the command carries. -/
def requestOf (command : Byte) (body : List Byte) : Option Request :=
  let byte := fun i => body.getD i 0#8
  let word := fun i => BitVec.ofNat 32 (beNat ((body.drop i).take 4))
  match command.toNat, body.length with
  | 0x01, 0 => some .status
  | 0x02, 1 => some (.readDock (byte 0))
  | 0x03, 1 => some (.readRecords (byte 0))
  | 0x10, 6 => some (.setTime (word 0) (byte 4) (byte 5))
  | 0x20, 18 => some (.keyLoad (byte 0) (byte 1) (BitVec.ofNat 128 (beNat (body.drop 2))))
  | 0x21, 1 => some (.keyDrop (byte 0))
  | 0x22, n + 1 =>
    if n = 4 * (byte 0).toNat then some (.denyAdd (byte 0) (idsOf (byte 0).toNat (body.drop 1))) else none
  | 0x23, 4 => some (.denyRemove (word 0))
  | 0x24, 0 => some .denyClear
  | 0x30, 7 => some (.holdSet (byte 0) (byte 1) (byte 2) (word 3))
  | 0x31, 1 => some (.holdClear (byte 0))
  | 0x32, 2 => some (.bikeCondition (byte 0) (byte 1))
  | 0x33, 2 => some (.lampDirect (byte 0) (byte 1))
  | 0x34, 1 => some (.lampAuto (byte 0))
  | 0x35, 1 => some (.clearFault (byte 0))
  | 0x40, 1 => some (.staffRelease (byte 0))
  | 0x41, 1 => some (.abortGrant (byte 0))
  | 0x42, 0 => some .suspend
  | 0x43, 0 => some .resume
  | 0x50, 1 => some (.railTrain (byte 0))
  | 0x60, 8 => some (.settingWrite (byte 0) (byte 1) (BitVec.ofNat 48 (beNat (body.drop 2))))
  | 0x61, 2 => some (.settingRead (byte 0) (byte 1))
  | 0x62, 0 => some .storeSettings
  | 0x63, 0 => some .restoreFactory
  | 0x64, 0 => some .serviceEnter
  | 0x65, 0 => some .serviceLeave
  | _, _ => none

/-- The command byte and the body of a request, as the station computer writes them. -/
def requestContent : Request → List Byte
  | .status => [0x01#8]
  | .readDock dock => [0x02#8, dock]
  | .readRecords count => [0x03#8, count]
  | .setTime seconds mode force => 0x10#8 :: (beBytes 4 seconds.toNat ++ [mode, force])
  | .keyLoad slot epoch key => 0x20#8 :: slot :: epoch :: beBytes 16 key.toNat
  | .keyDrop slot => [0x21#8, slot]
  | .denyAdd count ids => 0x22#8 :: count :: ids.flatMap (fun id => beBytes 4 id.toNat)
  | .denyRemove account => 0x23#8 :: beBytes 4 account.toNat
  | .denyClear => [0x24#8]
  | .holdSet kind dock id expiry => 0x30#8 :: kind :: dock :: id :: beBytes 4 expiry.toNat
  | .holdClear dock => [0x31#8, dock]
  | .bikeCondition dock condition => [0x32#8, dock, condition]
  | .lampDirect dock pattern => [0x33#8, dock, pattern]
  | .lampAuto dock => [0x34#8, dock]
  | .clearFault dock => [0x35#8, dock]
  | .staffRelease dock => [0x40#8, dock]
  | .abortGrant grant => [0x41#8, grant]
  | .suspend => [0x42#8]
  | .resume => [0x43#8]
  | .railTrain rail => [0x50#8, rail]
  | .settingWrite setting dock value => 0x60#8 :: setting :: dock :: beBytes 6 value.toNat
  | .settingRead setting dock => [0x61#8, setting, dock]
  | .storeSettings => [0x62#8]
  | .restoreFactory => [0x63#8]
  | .serviceEnter => [0x64#8]
  | .serviceLeave => [0x65#8]

/-- The bytes written in the write selection of a request, the selection byte first. -/
def requestSelection (r : Request) : List Byte := 0x3C#8 :: stationFrame (requestContent r)

/-- What R169 finds in the bytes written after the selection byte of a write selection. -/
inductive FrameVerdict where
  | badFrame
  | badRequest
  | valid (request : Request)
deriving DecidableEq, Repr

/-- R169: the examination of a request frame. -/
def examineFrame (bytes : List Byte) : FrameVerdict :=
  let length := beNat (bytes.take 2)
  if bytes.length ≠ length + 3 ∨ length < 1 ∨ 80 < length ∨ byteSum bytes ≠ 0#8 then .badFrame
  else
    match requestOf (bytes.getD 2 0#8) ((bytes.drop 3).take (length - 1)) with
    | some request => .valid request
    | none => .badRequest

/-! ## Rail messages (R142, R188) -/

/-- The command value of a rail message. -/
def Cmd.code : Cmd → Byte
  | .release _ => 0x31#8
  | .relock => 0x32#8
  | .lamp _ => 0x33#8
  | .tagRead => 0x34#8
  | .trainOn => 0x35#8
  | .trainOff _ => 0x36#8

/-- The argument of a rail message. -/
def Cmd.argument : Cmd → Byte
  | .lamp pattern => pattern.code
  | _ => 0#8

/-- The bytes of a rail message, the nine pull bytes of a TAG_READ included. -/
def Cmd.bytes (c : Cmd) : List Byte :=
  [c.code, c.argument, messageCheck c.code c.argument] ++
    (match c with
    | .tagRead => List.replicate 9 0#8
    | _ => [])

/-- The status code a status byte names; every other byte reads as no answer (R123). -/
def codeOf (status : Byte) : Option Code :=
  match status.toNat with
  | 1 => some .restEmpty
  | 2 => some .restHeld
  | 3 => some .open
  | 4 => some .jammed
  | 5 => some .training
  | _ => none

/-- The byte of a status code. -/
def Code.code : Code → Byte
  | .restEmpty => 1#8
  | .restHeld => 2#8
  | .open => 3#8
  | .jammed => 4#8
  | .training => 5#8

/-! ## Records -/

/-- The cause byte of a START record. -/
def causeCode : ResetCause → Byte
  | .powerOn => 1#8
  | .resetLine => 2#8
  | .lowSupply => 3#8

/-- The kind of the record of a grant's end. -/
def FinalOutcome.kind : FinalOutcome → Byte
  | .released => 2#8
  | .notTaken => 3#8
  | .failed => 4#8
  | .cancelled => 5#8

/-- The grant-ending detail values. -/
def Detail.code : Detail → Byte
  | .pulled => 1#8
  | .latePull => 2#8
  | .openNotSeen => 3#8
  | .jammed => 4#8
  | .relockFailed => 5#8
  | .relocked => 6#8
  | .beforeSend => 7#8
  | .unreachable => 8#8
  | .silent => 9#8
  | .latchUnknown => 10#8

/-- The cause byte of a DOCK_FAULT record. -/
def DockFaultCause.code : DockFaultCause → Byte
  | .jammed => 1#8
  | .unreachable => 2#8
  | .silent => 3#8

/-- The clock states as CLOCK records carry them; UNSET, which no record names, is 0. -/
def ClockState.code : ClockState → Byte
  | .unset => 0#8
  | .free => 1#8
  | .locking => 2#8
  | .locked => 3#8
  | .holdover => 4#8

/-- The eight bytes of a tag, zeros when it is absent. -/
def tagBytes (tag : Option Tag) : List Byte := beBytes 8 ((tag.getD 0#64).toNat)

/-- The kind byte of a record. -/
def RecordBody.kind : RecordBody → Byte
  | .start _ => 1#8
  | .grantEnd outcome _ _ _ _ _ => outcome.kind
  | .ret _ _ _ _ => 6#8
  | .poorDock _ => 7#8
  | .bikeMissing _ _ => 8#8
  | .dockFault _ _ => 9#8
  | .dockRecovered _ _ => 10#8
  | .reservationLapsed _ _ => 11#8
  | .clock _ => 12#8

/-- Whether a record carries a tag. -/
def RecordBody.hasTag : RecordBody → Bool
  | .grantEnd _ _ _ tag _ _ => tag.isSome
  | .ret _ tag _ _ => tag.isSome
  | .bikeMissing _ tag => tag.isSome
  | .dockRecovered _ tag => tag.isSome
  | _ => false

/-- Whether a record carries an account and a serial. -/
def RecordBody.hasHolder : RecordBody → Bool
  | .grantEnd _ _ _ _ holder _ => holder.isSome
  | _ => false

/-- The fields of a record after offset 7. -/
def RecordBody.fields : RecordBody → List Byte
  | .start cause => [causeCode cause]
  | .grantEnd _ grant dock tag holder detail =>
    [numByte grant, numByte dock.number] ++ tagBytes tag ++ beBytes 4 (holder.getD (0#32, 0#32)).1.toNat
      ++ beBytes 4 (holder.getD (0#32, 0#32)).2.toNat ++ [detail.code]
  | .ret dock tag notSensed intoService =>
    numByte dock.number :: tagBytes tag ++ [flagByte notSensed + 2#8 * flagByte intoService]
  | .poorDock dock => [numByte dock.number]
  | .bikeMissing dock tag => numByte dock.number :: tagBytes tag
  | .dockFault dock cause => [numByte dock.number, cause.code]
  | .dockRecovered dock tag => numByte dock.number :: tagBytes tag
  | .reservationLapsed dock id => [numByte dock.number, id]
  | .clock state => [state.code]

/-- The bytes of a record. -/
def Record.bytes (r : Record) : List Byte :=
  let rest :=
    [r.body.kind, flagByte r.time.isSome + 2#8 * flagByte r.body.hasTag + 4#8 * flagByte r.body.hasHolder]
      ++ beBytes 4 (r.time.getD 0) ++ r.body.fields
  numByte (rest.length + 1) :: rest

/-! ## The stored image (R189) -/

/-- R189 step 3: the bytes of a key slot. -/
def keySlotBytes : Option KeySlot → List Byte
  | some slot => 1#8 :: slot.epoch :: beBytes 16 slot.key.toNat
  | none => List.replicate 18 0#8

/-- R189 step 1: the 18 settings other than SAMPLE_DELAY in table order. -/
def Settings.values (w : Settings) : List Nat :=
  [w.stationGroup, w.fitted.toNat, w.bikeThreshold, w.hysteresis, w.noiseThreshold, w.negNoise, w.lowResetScans,
    w.bucket, w.debounce, w.seedOffset, w.pullWindow, w.confirmTimeout, w.channelTimeout, w.seatTimeout,
    w.holdoverGrowth, w.uncertaintyLimit, w.setUncertainty, w.linkSilence]

/-- R189: the contents the check word covers. -/
def Image.bytes (i : Image) : List Byte :=
  i.settings.values.flatMap (beBytes 6) ++ i.delays.toList.map numByte ++ keySlotBytes i.keyA ++ keySlotBytes i.keyB
    ++ beBytes 4 i.trim

/-- R189: the check word computed over an image. -/
def Image.computed (i : Image) : Word := crc32 i.bytes

/-- R184: whether the check word of an image is good. -/
def Image.good (i : Image) : Bool := i.check == i.computed

end Sys2Proof.Machine
end

