-- ==== Sys2Proof/Machine/Flags.lean ====
section
/-!
DEFINITION. What the part derives from its state: the clock state (R28), the uncertainty test of the CLOCK stage and of
the clock-usable flag (R16, R37), the class of a tag (R41), the effective pattern of a lamp (R57), and the conditions
under which a bike counts in availability (R60).
-/

namespace Sys2Proof.Machine

/-- R28: the clock state, from the label, k and the locked-since-label mark. -/
def deriveClock (labelled : Bool) (k : Nat) (lockedMark : Bool) : ClockState :=
  if labelled then
    if 4 ≤ k then .locked
    else if 1 ≤ k then .locking
    else if lockedMark then .holdover
    else .free
  else .unset

/-- now = S × 1000 + m. -/
def Clock.now (k : Clock) : Nat := k.sec * 1000 + k.ms

/-- R16 stage 5 and R37: the clock is labelled and U is not greater than UNCERTAINTY_LIMIT. -/
def Clock.usable (k : Clock) (limit : Nat) : Bool := k.labelled && k.unc ≤ limit

/-- R11, R17: max(now, H) − U > not-after × 1000 + 999, computed exactly. -/
def Clock.expired (k : Clock) (notAfter : Nat) : Bool := notAfter * 1000 + 999 + k.unc < max k.now k.high

/-- R17: now + U < not-before × 1000. -/
def Clock.early (k : Clock) (notBefore : Nat) : Bool := k.now + k.unc < notBefore * 1000

/-- R41: STANDARD when byte 0 of the tag is below 80 hex, ASSISTED when it is 80 hex or above, STANDARD when the tag
is absent. -/
def classOf : Option Tag → BikeClass
  | some tag => if tag.msb then .assisted else .standard
  | none => .standard

/-- R57: the effective pattern of a dock's lamp. -/
def Dock.pattern (d : Dock) : Pattern :=
  match d.lamp with
  | .direct pattern => pattern
  | .auto =>
    if d.state = .open then .fast
    else if d.state = .returning ∨ d.poor then .slow
    else if d.state = .fault ∨ d.hold.isSome then .steady
    else .off

/-- R60: a dock in DOCKED whose bike record has a tag, condition OK and the class named, and which carries no hold. -/
def Dock.available (d : Dock) (cls : BikeClass) : Bool :=
  d.state = .docked && d.hold.isNone &&
    (match d.bike with
    | some bike => bike.tag.isSome && bike.condition = .ok && bike.cls = cls
    | none => false)

/-- R60: a dock in EMPTY that carries no SERVICE hold. -/
def Dock.free (d : Dock) : Bool := d.state = .empty && d.hold != some .service

end Sys2Proof.Machine
end

