-- ==== Sys2Proof/Machine/Ops.lean ====
section
/-!
DEFINITION. The named operations over the pillar: reading and writing one dock, head, filter record, grant slot or rail;
the entry of records (R177); the source queues of the rails (R145 to R147); the output queue of the rider link (R166);
and what every event ends with, the lamps (R57) and the start of a transmission (R166).
-/

namespace Sys2Proof.Machine

/-- What the events of the pillar read of the other blocks: the working settings, the time a record takes (R176), and
the flags of AVAILABILITY (R165). -/
structure Ctx where
  w : Settings
  stamp : Option Nat
  offline : Bool
  clockUsable : Bool
  inService : Bool
deriving DecidableEq, Repr

/-! ## Docks, heads, filter records, grant slots -/

def Pillar.dock (p : Pillar) (d : DockNo) : Dock := p.docks[d]

def Pillar.setDock (p : Pillar) (d : DockNo) (x : Dock) : Pillar := { p with docks := p.docks.set d.val x d.isLt }

def Pillar.modDock (p : Pillar) (d : DockNo) (f : Dock → Dock) : Pillar := p.setDock d (f (p.dock d))

def Pillar.head (p : Pillar) (d : DockNo) : Head := p.heads[d]

def Pillar.setHead (p : Pillar) (d : DockNo) (x : Head) : Pillar := { p with heads := p.heads.set d.val x d.isLt }

def Pillar.modHead (p : Pillar) (d : DockNo) (f : Head → Head) : Pillar := p.setHead d (f (p.head d))

def Pillar.filter (p : Pillar) (d : DockNo) : Filter := p.filters[d]

def Pillar.setFilter (p : Pillar) (d : DockNo) (x : Filter) : Pillar :=
  { p with filters := p.filters.set d.val x d.isLt }

def Pillar.modFilter (p : Pillar) (d : DockNo) (f : Filter → Filter) : Pillar := p.setFilter d (f (p.filter d))

def Pillar.grant (p : Pillar) (i : Fin 8) : Option Grant := p.grants[i]

def Pillar.setGrant (p : Pillar) (i : Fin 8) (g : Option Grant) : Pillar :=
  { p with grants := p.grants.set i.val g i.isLt }

/-- R62: the number of active grants. -/
def Pillar.active (p : Pillar) : Nat := p.grants.toList.countP Option.isSome

/-- The slot and the fields of the active grant with an id. -/
def Pillar.findGrant (p : Pillar) (id : Nat) : Option (Fin 8 × Grant) :=
  allSlots.findSome? (fun i => (p.grant i).bind (fun g => if g.id = id then some (i, g) else none))

/-- The active grant that holds a dock, by the grant id of its record (R64). -/
def Pillar.grantOf (p : Pillar) (d : DockNo) : Option (Fin 8 × Grant) := (p.dock d).grant.bind p.findGrant

/-- R59: whether a dock is in the fitted set in force. -/
def Pillar.isFitted (p : Pillar) (d : DockNo) : Bool := p.fitted.getLsbD d.val

/-- R97: the number of docks carrying an owed return. -/
def Pillar.owedCount (p : Pillar) : Nat := p.docks.toList.countP (fun d => d.owed.isSome)

/-- R96, R104: the Presence Filter's flag for a dock; an uninitialised record reads absent (R108). -/
def Pillar.sensed (p : Pillar) (d : DockNo) : Bool := (p.filter d).initialised && (p.filter d).present

/-! ## Rails and head addresses -/

/-- Dock n is head n on Rail A for n from 1 to 24, and head n − 24 on Rail B for n from 25 to 48. -/
def railOf (d : DockNo) : RailId := if d.val < 24 then .a else .b

/-- The head address 1 to 24 of a dock on its rail. -/
def headAddr (d : DockNo) : Nat := if d.val < 24 then d.val + 1 else d.val - 23

/-- The dock a head address names on a rail. -/
def dockAt (r : RailId) (addr : Nat) : Option DockNo :=
  if addr ≤ 24 then
    match r with
    | .a => dockOf addr
    | .b => if addr = 0 then none else dockOf (addr + 24)
  else none

/-- The docks of a rail in address order. -/
def railDocks (r : RailId) : List DockNo := allDocks.filter (fun d => railOf d = r)

def Pillar.rail (p : Pillar) : RailId → Rail
  | .a => p.railA
  | .b => p.railB

def Pillar.setRail (p : Pillar) (r : RailId) (x : Rail) : Pillar :=
  match r with
  | .a => { p with railA := x }
  | .b => { p with railB := x }

def Pillar.modRail (p : Pillar) (r : RailId) (f : Rail → Rail) : Pillar := p.setRail r (f (p.rail r))

/-! ## The Record Queue (R176 to R179) -/

/-- R177: room. -/
def Pillar.room (p : Pillar) : Bool := p.records.length + p.active < Config.roomMax

/-- R176, R179: a record enters at the tail with the time of the moment, and ATTENTION is high. -/
def Pillar.enter (c : Ctx) (body : RecordBody) (p : Pillar) : Pillar :=
  { p with records := p.records ++ [{ time := c.stamp, body := body }], attention := true }

/-- R177: a lesser record enters when there is room, and is dropped with OVERFLOW set when there is none. -/
def Pillar.lesser (c : Ctx) (body : RecordBody) (p : Pillar) : Pillar :=
  if p.room then p.enter c body else { p with overflow := true }

/-! ## The source queues of a rail (R145 to R148) -/

def Rail.queue (r : Rail) : Source → List Msg
  | .safety => r.safety
  | .station => r.station
  | .rider => r.rider
  | .upkeep => r.upkeep

def Rail.setQueue (r : Rail) (s : Source) (q : List Msg) : Rail :=
  match s with
  | .safety => { r with safety := q }
  | .station => { r with station := q }
  | .rider => { r with rider := q }
  | .upkeep => { r with upkeep := q }

/-- R146: whether a joining message is served by a waiting one: a RELOCK, a LAMP or a TAG_READ for the same dock. -/
def Msg.serves (waiting joining : Msg) : Bool :=
  waiting.dock = joining.dock &&
    (match waiting.cmd, joining.cmd with
    | .relock, .relock => true
    | .tagRead, .tagRead => true
    | .lamp _, .lamp _ => true
    | _, _ => false)

/-- R145, R146: a message joins the tail of its queue, unless a waiting message serves it; a waiting LAMP takes the
new pattern in place. -/
def joinTail (q : List Msg) (m : Msg) : List Msg :=
  if q.any (fun o => o.serves m) then q.map (fun o => if o.serves m then m else o) else q ++ [m]

/-- R147: a message placed again joins the head of its queue. -/
def joinHead (q : List Msg) (m : Msg) : List Msg := m :: q.filter (fun o => !o.serves m)

def Pillar.join (s : Source) (m : Msg) (p : Pillar) : Pillar :=
  p.modRail (railOf m.dock) (fun r => r.setQueue s (joinTail (r.queue s) m))

def Pillar.placeAgain (s : Source) (m : Msg) (p : Pillar) : Pillar :=
  p.modRail (railOf m.dock) (fun r => r.setQueue s (joinHead (r.queue s) m))

/-- R147: the waiting messages that satisfy a test leave their queues; those behind keep their order. -/
def Rail.withdraw (test : Msg → Bool) (r : Rail) : Rail :=
  { r with
    safety := r.safety.filter (fun m => !test m)
    station := r.station.filter (fun m => !test m)
    rider := r.rider.filter (fun m => !test m)
    upkeep := r.upkeep.filter (fun m => !test m) }

/-- R141: the outcome of the message in the channel is discarded when the message satisfies a test. -/
def Rail.disown (test : Msg → Bool) (r : Rail) : Rail :=
  match r.chan.msg with
  | some (m, _) => if test m then { r with chan := { r.chan with orphan := true } } else r
  | none => r

/-- A requester withdraws the messages for a dock that satisfy a test: those that wait leave their queues, and the
outcome of one in the channel is discarded. -/
def Pillar.drop (d : DockNo) (test : Cmd → Bool) (p : Pillar) : Pillar :=
  p.modRail (railOf d)
    (fun r => (r.withdraw (fun m => m.dock = d && test m.cmd)).disown (fun m => m.dock = d && test m.cmd))

def Cmd.isRelease : Cmd → Bool
  | .release _ => true
  | _ => false

def Cmd.isRelock : Cmd → Bool
  | .relock => true
  | _ => false

def Cmd.isTagRead : Cmd → Bool
  | .tagRead => true
  | _ => false

/-- Whether a message for a dock that satisfies a test waits in a queue of the dock's rail. -/
def Pillar.waits (d : DockNo) (test : Cmd → Bool) (p : Pillar) : Bool :=
  let r := p.rail (railOf d)
  (r.safety ++ r.station ++ r.rider ++ r.upkeep).any (fun m => m.dock = d && test m.cmd)

/-! ## The output queue of the rider link (R165, R166) -/

def Pillar.send (f : OutFrame) (p : Pillar) : Pillar := { p with out := p.out ++ [f] }

def OutFrame.isMoved (ref : Byte) : OutFrame → Bool
  | .outcome ref' .moved _ => ref' = ref
  | _ => false

/-- R166: a final OUTCOME joins the tail, or takes the place of an OUTCOME MOVED with the same ref that still waits. -/
def Pillar.sendFinal (ref : Byte) (outcome : RiderOutcome) (dock : DockNo) (p : Pillar) : Pillar :=
  if p.out.any (fun f => f.isMoved ref) then
    { p with out := p.out.map (fun f => if f.isMoved ref then .outcome ref outcome dock else f) }
  else p.send (.outcome ref outcome dock)

/-- R167: a REFUSED verdict carries dock 0 and grant id 0. -/
def refusal (ref : Byte) (reason : Reason) : OutFrame := .verdict ref false 0 0 reason false

/-- R165, R166: the contents of a frame as its transmission begins; an AVAILABILITY is built at that moment. -/
def Pillar.build (c : Ctx) (p : Pillar) : OutFrame → SentFrame
  | .verdict ref granted dock grant reason repeated => .verdict ref granted dock grant reason repeated
  | .outcome ref outcome dock => .outcome ref outcome dock
  | .availability =>
    .availability (p.docks.toList.countP (fun d => d.available .standard))
      (p.docks.toList.countP (fun d => d.available .assisted)) (p.docks.toList.countP Dock.free)
      (p.suspended || c.inService) c.offline c.clockUsable

/-- R166: when no frame is in transmission and the queue is not empty, the frame at the head leaves the queue and its
transmission begins. -/
def Pillar.transmit (c : Ctx) (p : Pillar) : Pillar :=
  match p.tx, p.out with
  | none, f :: rest => { p with out := rest, tx := some (p.build c f) }
  | _, _ => p

/-! ## Lamps (R57) -/

/-- R57: after an event, the LAMP of one dock is queued when its effective pattern has changed or the dock has left
SILENT, and the dock is neither SILENT nor UNFITTED. -/
def Pillar.relampDock (before : Pillar) (p : Pillar) (d : DockNo) : Pillar :=
  let old := before.dock d
  let new := p.dock d
  if new.state = .silent ∨ new.state = .unfitted then p
  else if old.state = .silent ∨ old.pattern ≠ new.pattern then
    p.join .upkeep { cmd := .lamp new.pattern, dock := d }
  else p

/-- R57 for every dock, in dock-number order. -/
def Pillar.relamp (before p : Pillar) : Pillar := allDocks.foldl (Pillar.relampDock before) p

/-- One event of the pillar: its effect, then the lamps it changed, then the start of a transmission. -/
def Pillar.event (c : Ctx) (f : Pillar → Pillar) (p : Pillar) : Pillar := (Pillar.relamp p (f p)).transmit c

/-- An event that is taken only when it is due. -/
def Pillar.eventIf (c : Ctx) (due : Bool) (f : Pillar → Pillar) (p : Pillar) : Pillar :=
  if due then p.event c f else p

end Sys2Proof.Machine
end

