-- ==== Sys2Proof/Machine/Docks.lean ====
section
/-!
DEFINITION. The Dock Manager's operations on a dock record: entering a state, bike records and the Dock Order List
(R41, R42), faults (R46, R48), identifications and returns (R90 to R101), relocks without a grant (R45), recovery (R49),
the seat watch (R104 to R106), and the change, present and absent events of a dock that no grant holds (R44, R102, R107).
-/

namespace Sys2Proof.Machine

/-! ## States -/

/-- A dock enters a state other than EMPTY: its fault cause is that of the state alone, and leaving EMPTY ends any
presence episode (R106). -/
def Pillar.enterState (d : DockNo) (st : DockState) (p : Pillar) : Pillar :=
  p.modDock d (fun k => { k with state := st, cause := none, watch := none, poor := false })

/-- R104: the seat watch starts. -/
def Dock.startWatch (w : Settings) (k : Dock) : Dock :=
  { k with watch := some (w.seatTimeout * Config.ticksPerSecond), poor := false }

/-- A dock enters EMPTY, and the seat watch starts when the Presence Filter's flag reads present (R104). -/
def Pillar.enterEmpty (c : Ctx) (d : DockNo) (p : Pillar) : Pillar :=
  let p := p.enterState d .empty
  if p.sensed d then p.modDock d (Dock.startWatch c.w) else p

/-! ## Bike records and the Dock Order List (R41, R42) -/

/-- The tag of the bike record a dock holds; absent when there is none or it is unidentified. -/
def Dock.tag (k : Dock) : Option Tag := k.bike.bind Bike.tag

def Hold.isReserve : Hold → Bool
  | .reserve _ _ => true
  | .service => false

/-- R41, R51: a dock without its RESERVE hold; a SERVICE hold stays. -/
def Dock.dropReserve (k : Dock) : Dock :=
  { k with hold := k.hold.filter (fun h => !h.isReserve) }

/-- R41: a bike record is cleared; the dock leaves the Dock Order List and a RESERVE hold on it is removed. -/
def Pillar.clearBike (d : DockNo) (p : Pillar) : Pillar :=
  let p := p.modDock d (fun k => { k.dropReserve with bike := none })
  { p with order := p.order.filter (fun e => e != d) }

/-- R41, R42: a bike record is created, with the class of its tag and condition OK, and the dock is appended at the
tail of the Dock Order List. -/
def Pillar.addBike (d : DockNo) (tag : Option Tag) (p : Pillar) : Pillar :=
  let p := p.modDock d (fun k => { k with bike := some { tag := tag, cls := classOf tag, condition := .ok } })
  { p with order := p.order ++ [d] }

/-! ## Identifications and relocks without a grant, as fields -/

/-- R91: an identification ends before it completes; its TAG_READ is withdrawn, or its outcome discarded. -/
def Pillar.endIdent (d : DockNo) (p : Pillar) : Pillar :=
  (p.drop d Cmd.isTagRead).modDock d (fun k => { k with ident := none })

/-- R46, R50: a relock ends at once; its RELOCK is withdrawn, or its outcome discarded. -/
def Pillar.endRelock (d : DockNo) (p : Pillar) : Pillar :=
  (p.drop d Cmd.isRelock).modDock d (fun k => { k with relock := none })

/-- R45: a relock without a grant is started; one already in progress serves, with its attempt number unchanged. -/
def Pillar.startRelock (d : DockNo) (p : Pillar) : Pillar :=
  if (p.dock d).relock.isSome then p
  else
    (p.modDock d (fun k => { k with relock := some { attempt := 1, deadline := none } })).join .safety
      { cmd := .relock, dock := d }

/-- R90: a dock enters RETURNING, and an identification starts whose kind follows from the recovery flag. -/
def Pillar.startIdent (d : DockNo) (p : Pillar) : Pillar :=
  let kind := if (p.dock d).recovery then .recovery else .ret
  ((p.enterState d .returning).modDock d (fun k => { k with ident := some { kind := kind, attempt := 1 } })).join .upkeep
    { cmd := .tagRead, dock := d }

/-! ## Faults (R46, R48) -/

/-- The cause of a FAULT as its DOCK_FAULT record carries it. -/
def FaultCause.record : FaultCause → DockFaultCause
  | .jammed => .jammed
  | .unreachable => .unreachable

/-- R46, R48: a dock enters FAULT with a cause and a DOCK_FAULT record; its identification, relock and recovery flag are
cleared with the messages they wait on. The grant id is cleared when a grant lets the dock go (R51). -/
def Pillar.faultDock (c : Ctx) (d : DockNo) (cause : FaultCause) (p : Pillar) : Pillar :=
  let p := p.lesser c (.dockFault d cause.record)
  let p := ((p.endIdent d).endRelock d).enterState d .fault
  p.modDock d (fun k => { k with cause := some cause, recovery := false, grant := none })

/-! ## Completing returns and recoveries (R92 to R101) -/

/-- R96, R97, R99: the RETURN record of a dock is made, and is entered or owed. -/
def Pillar.makeReturn (c : Ctx) (d : DockNo) (tag : Option Tag) (p : Pillar) : Pillar :=
  let notSensed := !p.sensed d
  let intoService := decide ((p.dock d).hold = some .service)
  if p.room then p.enter c (.ret d tag notSensed intoService)
  else
    let p := { p with overflow := p.overflow || (p.dock d).owed.isSome }
    p.modDock d (fun k => { k with owed := some { tag := tag, notSensed := notSensed, intoService := intoService } })

/-- R94, R95: an identification completes as a return, with the tag read or the tag absent. -/
def Pillar.completeReturn (c : Ctx) (d : DockNo) (tag : Option Tag) (p : Pillar) : Pillar :=
  let p := (p.addBike d tag).enterState d .docked
  (p.modDock d (fun k => { k with ident := none })).makeReturn c d tag

/-- R101: a recovery that does not match clears the retained record and completes as a return. -/
def Pillar.recoverMismatch (c : Ctx) (d : DockNo) (tag : Option Tag) (p : Pillar) : Pillar :=
  let p := if (p.dock d).bike.isSome then p.clearBike d else p
  (p.modDock d (fun k => { k with recovery := false })).completeReturn c d tag

/-- R100: a recovery whose tag matches the retained record. -/
def Pillar.recoverMatch (c : Ctx) (d : DockNo) (tag : Tag) (p : Pillar) : Pillar :=
  let p := (p.enterState d .docked).modDock d (fun k => { k with ident := none, recovery := false })
  p.lesser c (.dockRecovered d (some tag))

/-- R92 to R101: the outcome of a TAG_READ that belongs to the identification in progress; `tag` is the tag when the
read succeeded. -/
def Pillar.tagOutcome (c : Ctx) (d : DockNo) (tag : Option Tag) (p : Pillar) : Pillar :=
  match (p.dock d).ident, tag with
  | none, _ => p
  | some ident, some tag =>
    match ident.kind with
    | .ret => p.completeReturn c d (some tag)
    | .recovery =>
      if (p.dock d).tag = some tag then p.recoverMatch c d tag else p.recoverMismatch c d (some tag)
  | some ident, none =>
    if ident.attempt < 3 then
      (p.modDock d (fun k => { k with ident := some { ident with attempt := ident.attempt + 1 } })).placeAgain .upkeep
        { cmd := .tagRead, dock := d }
    else
      match ident.kind with
      | .ret => p.completeReturn c d none
      | .recovery => p.recoverMismatch c d none

/-- R92: the tag of a TAG_READ, when its outcome is DONE and its check byte matches. -/
def tagRead (outcome : ChanOutcome) (replies : List Byte) : Option Tag :=
  if outcome = .done ∧ replies.length = 9 ∧ replies.getD 8 0#8 = tagCheck (replies.take 8) then
    some (BitVec.ofNat 64 (beNat (replies.take 8)))
  else none

/-! ## Relocks without a grant (R45) -/

/-- R45: a relock without a grant ends with the latch at rest; `held` says whether the code is REST_HELD. -/
def Pillar.relockAtRest (c : Ctx) (d : DockNo) (held : Bool) (p : Pillar) : Pillar :=
  let p := p.endRelock d
  let k := p.dock d
  if k.state ≠ .relocking then p
  else if held then
    if k.recovery then p.startIdent d
    else if k.bike.isSome then p.enterState d .docked
    else p.startIdent d
  else
    let q := ((if k.bike.isSome then p.clearBike d else p).enterEmpty c d).modDock d (fun k => { k with recovery := false })
    if k.recovery then q.lesser c (.dockRecovered d k.tag)
    else if k.bike.isSome then q.lesser c (.bikeMissing d k.tag)
    else q

/-- R45: an attempt of a relock without a grant fails. -/
def Pillar.relockAttemptFailed (c : Ctx) (d : DockNo) (p : Pillar) : Pillar :=
  match (p.dock d).relock with
  | none => p
  | some relock =>
    if relock.attempt < 3 then
      (p.modDock d (fun k => { k with relock := some { attempt := relock.attempt + 1, deadline := none } })).placeAgain
        .safety { cmd := .relock, dock := d }
    else if (p.dock d).state = .relocking then p.faultDock c d .unreachable
    else p.endRelock d

/-- Whether a code is REST_HELD or REST_EMPTY. -/
def Code.atRest : Code → Bool
  | .restHeld | .restEmpty => true
  | _ => false

/-- R45: the end of the channel transfer of a relock without a grant. -/
def Pillar.relockTransferEnd (c : Ctx) (d : DockNo) (outcome : ChanOutcome) (p : Pillar) : Pillar :=
  match (p.dock d).relock with
  | none => p
  | some relock =>
    match (p.head d).confirmed with
    | some .restHeld => p.relockAtRest c d true
    | some .restEmpty => p.relockAtRest c d false
    | _ =>
      if outcome = .done then
        p.modDock d (fun k => { k with relock := some { relock with deadline := some c.w.confirmTimeout } })
      else p.relockAttemptFailed c d

/-- R45: a change event to REST_HELD or REST_EMPTY while a relock without a grant is in progress. It completes the
relock while the RELOCK still waits or after its transfer has ended, and has no effect while it is in the channel. -/
def Pillar.relockChange (c : Ctx) (d : DockNo) (held : Bool) (p : Pillar) : Pillar :=
  match (p.dock d).relock with
  | none => p
  | some relock => if p.waits d Cmd.isRelock ∨ relock.deadline.isSome then p.relockAtRest c d held else p

/-! ## Recovery (R49) -/

/-- R49: recovery acts on the head's confirmed code. -/
def Pillar.recover (c : Ctx) (d : DockNo) (code : Code) (p : Pillar) : Pillar :=
  match code with
  | .restHeld => (p.modDock d (fun k => { k with recovery := true })).startIdent d
  | .restEmpty =>
    let tag := (p.dock d).tag
    ((if (p.dock d).bike.isSome then p.clearBike d else p).enterEmpty c d).lesser c (.dockRecovered d tag)
  | .open => ((p.enterState d .relocking).modDock d (fun k => { k with recovery := true })).startRelock d
  | .jammed => p.faultDock c d .jammed
  | .training => p

/-! ## Events of a dock that no grant holds (R44, R102, R107) -/

/-- R44: an OPEN code on a dock that no grant holds. -/
def Pillar.openedWithoutGrant (d : DockNo) (p : Pillar) : Pillar :=
  ((p.endIdent d).enterState d .relocking).startRelock d

/-- R102: REST_EMPTY on a RETURNING dock. -/
def Pillar.returnGone (c : Ctx) (d : DockNo) (p : Pillar) : Pillar :=
  let k := p.dock d
  let p := p.endIdent d
  let p := if k.recovery ∧ k.bike.isSome then p.clearBike d else p
  let p := (p.enterEmpty c d).modDock d (fun k => { k with recovery := false })
  if k.recovery then p.lesser c (.dockRecovered d k.tag) else p

/-- R107: REST_EMPTY on a DOCKED dock. -/
def Pillar.bikeMissing (c : Ctx) (d : DockNo) (p : Pillar) : Pillar :=
  let tag := (p.dock d).tag
  ((p.clearBike d).enterEmpty c d).lesser c (.bikeMissing d tag)

/-- R44: a change event on a dock with no grant id, by the state of the dock. -/
def Pillar.dockCode (c : Ctx) (d : DockNo) (code : Code) (p : Pillar) : Pillar :=
  match (p.dock d).state, code with
  | .silent, _ => p.recover c d code
  | .empty, .restHeld => p.startIdent d
  | .empty, .open => p.openedWithoutGrant d
  | .empty, .jammed => p.faultDock c d .jammed
  | .returning, .restEmpty => p.returnGone c d
  | .returning, .open => p.openedWithoutGrant d
  | .returning, .jammed => p.faultDock c d .jammed
  | .docked, .restEmpty => p.bikeMissing c d
  | .docked, .open => p.openedWithoutGrant d
  | .docked, .jammed => p.faultDock c d .jammed
  | .relocking, .restHeld => p.relockChange c d true
  | .relocking, .restEmpty => p.relockChange c d false
  | .relocking, .jammed => p.faultDock c d .jammed
  | .fault, .restHeld => p.relockChange c d true
  | .fault, .restEmpty => p.relockChange c d false
  | _, _ => p

/-- R43, R104: a present event on a dock with no grant id starts the seat watch of an EMPTY dock; within an episode it
changes nothing. -/
def Pillar.dockPresent (c : Ctx) (d : DockNo) (p : Pillar) : Pillar :=
  let k := p.dock d
  if k.state = .empty ∧ k.watch = none ∧ k.poor = false then p.modDock d (Dock.startWatch c.w) else p

/-- R43, R106: an absent event on a dock with no grant id ends the presence episode of an EMPTY dock. -/
def Pillar.dockAbsent (d : DockNo) (p : Pillar) : Pillar :=
  if (p.dock d).state = .empty then p.modDock d (fun k => { k with watch := none, poor := false }) else p

/-- R105: the POOR_DOCK timer expires while the dock is still EMPTY. -/
def Pillar.poorDockExpired (c : Ctx) (d : DockNo) (p : Pillar) : Pillar :=
  (p.modDock d (fun k => { k with watch := none, poor := true })).lesser c (.poorDock d)

/-! ## Holds at a second boundary (R55) -/

/-- R55: one dock's RESERVE hold lapses when its expiry is less than the new S. -/
def Pillar.lapseDock (c : Ctx) (sec : Nat) (p : Pillar) (d : DockNo) : Pillar :=
  match (p.dock d).hold with
  | some (.reserve id expiry) =>
    if expiry < sec then (p.modDock d (fun k => { k with hold := none })).lesser c (.reservationLapsed d id) else p
  | _ => p

/-- R55: the RESERVE holds lapse in dock-number order. -/
def Pillar.lapse (c : Ctx) (sec : Nat) (p : Pillar) : Pillar := allDocks.foldl (Pillar.lapseDock c sec) p

end Sys2Proof.Machine
end

