-- ==== Sys2Proof/Machine/Grants.lean ====
section
/-!
DEFINITION. The Grant Engine (spec/04): the end of a grant (R87, R88), the changes it asks of a dock (R51), dock choice
and creation (R63, R65 to R68, R85), the phases and their events (R69 to R84), and re-allocation (R75).
-/

namespace Sys2Proof.Machine

/-! ## The end of a grant (R87, R88) -/

/-- The outcome of an OUTCOME frame for a final outcome. -/
def FinalOutcome.rider : FinalOutcome → RiderOutcome
  | .released => .released
  | .notTaken => .notTaken
  | .failed => .failed
  | .cancelled => .cancelled

/-- R10: the grant id of a spent-list entry is cleared when its grant ends. -/
def clearSpent (id : Nat) (l : List SpentEntry) : List SpentEntry :=
  l.map (fun e => if e.grant = some id then { e with grant := none } else e)

/-- R87 steps 2 to 5: the grant-ending record always enters, the OUTCOME of a RIDER grant is placed, its spent-list
entry loses the grant id, and the slot is freed. The dock change of step 1 and the tag taken before it are the
caller's. -/
def Pillar.endGrant (c : Ctx) (i : Fin 8) (outcome : FinalOutcome) (detail : Detail) (tag : Option Tag) (p : Pillar) :
    Pillar :=
  match p.grant i with
  | none => p
  | some g =>
    let p := p.enter c
      (.grantEnd outcome g.id g.dock tag (g.rider.map (fun r => (r.account, r.serial))) detail)
    let p :=
      match g.rider with
      | some r => { p.sendFinal r.ref outcome.rider g.dock with spent := clearSpent g.id p.spent }
      | none => p
    p.setGrant i none

/-! ## Changes of the dock a grant holds (R51) -/

/-- R51 take: the dock goes to RELEASING with the grant's id; a RESERVE hold is removed without a record. -/
def Pillar.takeDock (d : DockNo) (id : Nat) (p : Pillar) : Pillar :=
  (p.enterState d .releasing).modDock d (fun k => { k.dropReserve with grant := some id })

/-- R51 end in place: the dock is DOCKED, and the bike record and its place are kept. -/
def Pillar.endInPlace (d : DockNo) (p : Pillar) : Pillar :=
  (p.enterState d .docked).modDock d (fun k => { k with grant := none })

/-- R51 end empty: the dock goes to EMPTY with its bike record cleared. -/
def Pillar.endEmpty (c : Ctx) (d : DockNo) (p : Pillar) : Pillar :=
  ((p.modDock d (fun k => { k with grant := none })).clearBike d).enterEmpty c d

/-- R51 fault: the dock goes to FAULT, and its bike record is cleared when the bike is gone. -/
def Pillar.grantFault (c : Ctx) (d : DockNo) (cause : FaultCause) (gone : Bool) (p : Pillar) : Pillar :=
  let p := p.faultDock c d cause
  if gone then p.clearBike d else p

/-! ## Choice and creation (R63, R65 to R68, R85) -/

/-- R63: the search for the next grant id: 1 is added, 255 changing to 1, for as long as the value is in use. -/
def nextId (inUse : Nat → Bool) : Nat → Nat → Nat
  | 0, n => if n ≥ 255 then 1 else n + 1
  | fuel + 1, n =>
    let next := if n ≥ 255 then 1 else n + 1
    if inUse next then nextId inUse fuel next else next

/-- R63: the id the next grant takes. At most 8 ids are in use, so 9 steps suffice. -/
def Pillar.newId (p : Pillar) : Nat := nextId (fun id => (p.findGrant id).isSome) 8 p.lastGrant

/-- The lowest free slot of the grant table (DESIGN CHOICE, entry 7: the spec does not say which free slot). -/
def Pillar.freeSlot (p : Pillar) : Option (Fin 8) := allSlots.find? (fun i => (p.grant i).isNone)

/-- R65: the first two conditions of the room test. -/
def Pillar.roomForGrant (p : Pillar) : Bool :=
  p.freeSlot.isSome && p.records.length + p.active + p.owedCount < Config.roomMax

/-- R65: the room test, after the spent list has been pruned. -/
def Pillar.roomTest (p : Pillar) : Bool := p.roomForGrant && p.spent.length < Config.spentMax

/-- R66: whether a class is acceptable to a grant's bike class. -/
def classAccepted (wanted : Byte) (cls : BikeClass) : Bool :=
  wanted = 0#8 || (wanted = 1#8 && cls = .standard) || (wanted = 2#8 && cls = .assisted)

/-- R66: whether a dock is eligible for a RIDER grant with a bike class and a hold ticket. -/
def Dock.eligible (bikeClass ticket : Byte) (k : Dock) : Bool :=
  k.state = .docked &&
    (match k.bike with
    | some bike => bike.tag.isSome && bike.condition = .ok && classAccepted bikeClass bike.cls
    | none => false) &&
    (match k.hold with
    | none => true
    | some .service => false
    | some (.reserve id _) => id = ticket)

/-- R67 step 3 and R75: the first dock of the Dock Order List that is eligible and carries no hold. -/
def Pillar.walk (bikeClass : Byte) (p : Pillar) : Option DockNo :=
  p.order.find? (fun d => (p.dock d).eligible bikeClass 0#8 && (p.dock d).hold.isNone)

/-- R52: the dock that carries a RESERVE hold with an id. -/
def Pillar.reservedDock (id : Byte) (p : Pillar) : Option DockNo :=
  allDocks.find? (fun d =>
    match (p.dock d).hold with
    | some (.reserve id' _) => id' = id
    | _ => false)

/-- R67: the choice of a dock, or the reason of the refusal. -/
def Pillar.choose (t : Token) (p : Pillar) : Except Reason DockNo :=
  let candidate := fun d =>
    if (p.dock d).eligible t.bikeClass t.ticket then Except.ok d else Except.error Reason.dockUnavailable
  let reserved := if t.ticket = 0#8 then none else p.reservedDock t.ticket
  match reserved with
  | some d => candidate d
  | none =>
    if t.dock = 0#8 then
      match p.walk t.bikeClass with
      | some d => .ok d
      | none => .error .noBike
    else
      match dockOperand t.dock with
      | some d => candidate d
      | none => .error .dockUnavailable

/-- R62: a grant as it is created. -/
def Grant.create (id : Nat) (dock : DockNo) (rider : Option RiderPart) : Grant where
  id := id
  dock := dock
  rider := rider
  phase := .queued
  attempts := 1
  moved := false
  cancelPending := false
  cause := none
  latePull := false
  timer := none

/-- R71: the source queue of a grant's RELEASE. -/
def Grant.source (g : Grant) : Source := if g.rider.isSome then .rider else .station

/-- R10: an entry is inserted after every entry whose not-after is less than or equal to its own. -/
def insertSpent (e : SpentEntry) : List SpentEntry → List SpentEntry
  | [] => [e]
  | x :: rest => if x.notAfter ≤ e.notAfter then x :: insertSpent e rest else e :: x :: rest

/-- R68, R85: a grant is created on a dock in a free slot, the dock is taken and its RELEASE joins its queue. -/
def Pillar.createGrant (i : Fin 8) (d : DockNo) (rider : Option RiderPart) (p : Pillar) : Pillar :=
  let id := p.newId
  let g := Grant.create id d rider
  let p := ({ p with lastGrant := id }.setGrant i (some g)).takeDock d id
  p.join g.source { cmd := .release id, dock := d }

/-! ## Phases -/

/-- R72: a grant enters phase OPEN. -/
def Pillar.grantOpen (c : Ctx) (i : Fin 8) (g : Grant) (p : Pillar) : Pillar :=
  let p := (p.drop g.dock Cmd.isRelease).enterState g.dock .open
  p.setGrant i (some { g with phase := .open, timer := some (c.w.pullWindow * Config.ticksPerSecond) })

/-- R78: a grant enters RELOCK. -/
def Pillar.grantRelock (i : Fin 8) (g : Grant) (cause : RelockCause) (p : Pillar) : Pillar :=
  let p := (p.drop g.dock Cmd.isRelease).enterState g.dock .relocking
  let p := p.setGrant i (some { g with phase := .relock, cause := some cause, attempts := 1, timer := none })
  p.join .safety { cmd := .relock, dock := g.dock }

/-- R75: re-allocation of a grant that has let go of its dock; otherwise it ends FAILED with the detail of the asking
rule and the old dock as its dock. -/
def Pillar.reallocate (c : Ctx) (i : Fin 8) (g : Grant) (detail : Detail) (p : Pillar) : Pillar :=
  match g.rider with
  | some r =>
    match (if g.moved then none else p.walk r.bikeClass) with
    | some d =>
      let p := p.takeDock d g.id
      let p := p.setGrant i (some { g with dock := d, moved := true, attempts := 1, timer := none, phase := .queued })
      (p.send (.outcome r.ref .moved d)).join .rider { cmd := .release g.id, dock := d }
    | none => p.endGrant c i .failed detail (p.dock g.dock).tag
  | none => p.endGrant c i .failed detail (p.dock g.dock).tag

/-- R71: a release attempt fails. -/
def Pillar.releaseFailed (c : Ctx) (i : Fin 8) (g : Grant) (p : Pillar) : Pillar :=
  if g.attempts < 3 then
    (p.setGrant i (some { g with attempts := g.attempts + 1, phase := .queued, timer := none })).placeAgain g.source
      { cmd := .release g.id, dock := g.dock }
  else ((p.grantFault c g.dock .unreachable false).startRelock g.dock).reallocate c i g .unreachable

/-- R73: JAMMED before the latch opens. -/
def Pillar.grantJammed (c : Ctx) (i : Fin 8) (g : Grant) (p : Pillar) : Pillar :=
  let p := (p.grantFault c g.dock .jammed false).drop g.dock Cmd.isRelease
  if g.cancelPending then p.endGrant c i .cancelled .jammed (p.dock g.dock).tag else p.reallocate c i g .jammed

/-- R77: JAMMED in phase OPEN; the grant ends read from the Presence Filter's flag. -/
def Pillar.openJammed (c : Ctx) (i : Fin 8) (g : Grant) (p : Pillar) : Pillar :=
  let gone := !p.sensed g.dock
  let tag := (p.dock g.dock).tag
  (p.grantFault c g.dock .jammed gone).endGrant c i (if gone then .released else .notTaken) .jammed tag

/-- R77: an absent event in phase OPEN. -/
def Pillar.pulled (c : Ctx) (i : Fin 8) (g : Grant) (p : Pillar) : Pillar :=
  let tag := (p.dock g.dock).tag
  (p.endEmpty c g.dock).endGrant c i .released .pulled tag

/-- R79: the relock of a grant completes; `held` says whether the confirmed code is REST_HELD. -/
def Pillar.grantRelocked (c : Ctx) (i : Fin 8) (g : Grant) (held : Bool) (p : Pillar) : Pillar :=
  let d := g.dock
  let tag := (p.dock d).tag
  let p := p.drop d Cmd.isRelock
  if held then
    if g.latePull then ((p.endEmpty c d).endGrant c i .released .latePull tag).startIdent d
    else
      (p.endInPlace d).endGrant c i (if g.cause = some .cancel then .cancelled else .notTaken) .relocked tag
  else
    (p.endEmpty c d).endGrant c i .released (if g.cause = some .emptied then .openNotSeen else .latePull) tag

/-- R80: the relock of a grant fails at its third failed attempt, or at a JAMMED code. -/
def Pillar.grantRelockFailed (c : Ctx) (i : Fin 8) (g : Grant) (cause : FaultCause) (p : Pillar) : Pillar :=
  let gone := !p.sensed g.dock || g.latePull
  let tag := (p.dock g.dock).tag
  let outcome := if gone then .released else if g.cause = some .cancel then .cancelled else .notTaken
  let detail := if cause = .jammed then .jammed else .relockFailed
  (p.grantFault c g.dock cause gone).endGrant c i outcome detail tag

/-- R78: a relock attempt of a grant fails. -/
def Pillar.grantRelockAttemptFailed (c : Ctx) (i : Fin 8) (g : Grant) (p : Pillar) : Pillar :=
  if g.attempts < 3 then
    (p.setGrant i (some { g with attempts := g.attempts + 1, timer := none })).placeAgain .safety
      { cmd := .relock, dock := g.dock }
  else p.grantRelockFailed c i g .unreachable

/-! ## Events of a grant -/

/-- R78: a change event to REST_HELD or REST_EMPTY in RELOCK. -/
def Pillar.grantRelockChange (c : Ctx) (i : Fin 8) (g : Grant) (held : Bool) (p : Pillar) : Pillar :=
  if p.waits g.dock Cmd.isRelock ∨ g.timer.isSome then p.grantRelocked c i g held else p

/-- R70 to R78: a change event for the dock a grant holds, by phase. -/
def Pillar.grantCode (c : Ctx) (i : Fin 8) (g : Grant) (code : Code) (p : Pillar) : Pillar :=
  match g.phase, code with
  | .queued, .open => p.grantOpen c i g
  | .sending, .open => if g.cancelPending then p.grantRelock i g .cancel else p.grantOpen c i g
  | .confirming, .open => p.grantOpen c i g
  | .queued, .jammed => p.grantJammed c i g
  | .sending, .jammed => p.grantJammed c i g
  | .confirming, .jammed => p.grantJammed c i g
  | .queued, .restEmpty => p.grantRelock i g .emptied
  | .sending, .restEmpty => p.grantRelock i g .emptied
  | .confirming, .restEmpty => p.grantRelock i g .emptied
  | .open, .restHeld => p.grantRelock i g .pull
  | .open, .restEmpty => p.grantRelock i g .pull
  | .open, .jammed => p.openJammed c i g
  | .relock, .restHeld => p.grantRelockChange c i g true
  | .relock, .restEmpty => p.grantRelockChange c i g false
  | .relock, .jammed => p.grantRelockFailed c i g .jammed
  | _, _ => p

/-- R77, R78: an absent event for the dock a grant holds. -/
def Pillar.grantAbsent (c : Ctx) (i : Fin 8) (g : Grant) (p : Pillar) : Pillar :=
  match g.phase with
  | .open => p.pulled c i g
  | .relock => p.setGrant i (some { g with latePull := true })
  | _ => p

/-- R69, R82: the channel outcome of a grant's RELEASE, for a grant in SENDING on the dock of the message. -/
def Pillar.releaseOutcome (c : Ctx) (id : Nat) (d : DockNo) (outcome : ChanOutcome) (p : Pillar) : Pillar :=
  match p.findGrant id with
  | none => p
  | some (i, g) =>
    if g.phase = .sending ∧ g.dock = d then
      if g.cancelPending then p.grantRelock i g .cancel
      else if outcome = .done then
        p.setGrant i (some { g with phase := .confirming, timer := some c.w.confirmTimeout })
      else p.releaseFailed c i g
    else p

/-- R78: the end of the channel transfer of a grant's RELOCK. -/
def Pillar.grantRelockTransferEnd (c : Ctx) (i : Fin 8) (g : Grant) (outcome : ChanOutcome) (p : Pillar) : Pillar :=
  match (p.head g.dock).confirmed with
  | some .restHeld => p.grantRelocked c i g true
  | some .restEmpty => p.grantRelocked c i g false
  | _ =>
    if outcome = .done then p.setGrant i (some { g with timer := some c.w.confirmTimeout })
    else p.grantRelockAttemptFailed c i g

/-- R45, R78, R146: the outcome of a RELOCK is delivered to whichever relock of the dock is in progress. -/
def Pillar.relockOutcome (c : Ctx) (d : DockNo) (outcome : ChanOutcome) (p : Pillar) : Pillar :=
  match p.grantOf d with
  | some (i, g) => if g.phase = .relock then p.grantRelockTransferEnd c i g outcome else p
  | none => p.relockTransferEnd c d outcome

/-- R84: the dock a grant holds has fallen silent; the Dock Manager has made it SILENT and cleared its grant id. -/
def Pillar.grantSilent (c : Ctx) (i : Fin 8) (g : Grant) (p : Pillar) : Pillar :=
  let carrying :=
    match g.phase with
    | .queued | .sending | .confirming => !g.cancelPending
    | _ => false
  if carrying then p.reallocate c i g .silent
  else p.endGrant c i .failed .latchUnknown (p.dock g.dock).tag

/-! ## Cancel and abort (R81, R83) -/

/-- R140: a controller abort is asked for a message in the channel. -/
def Rail.askAbort (test : Msg → Bool) (r : Rail) : Rail :=
  match r.chan.msg with
  | some (m, _) =>
    if test m ∧ r.chan.outcome = none then { r with chan := { r.chan with abort := .asked } } else r
  | none => r

/-- R81, R83: a cancel or an abort acts on a grant in QUEUED, SENDING or CONFIRMING. -/
def Pillar.cancelGrant (c : Ctx) (i : Fin 8) (g : Grant) (p : Pillar) : Pillar :=
  match g.phase with
  | .queued =>
    let tag := (p.dock g.dock).tag
    ((p.drop g.dock Cmd.isRelease).endInPlace g.dock).endGrant c i .cancelled .beforeSend tag
  | .sending =>
    if g.cancelPending then p
    else
      (p.setGrant i (some { g with cancelPending := true })).modRail (railOf g.dock)
        (Rail.askAbort (fun m => m.dock = g.dock && m.cmd = .release g.id))
  | .confirming => p.grantRelock i { g with cancelPending := true } .cancel
  | .open => p
  | .relock => p

/-- R81: the active RIDER grant whose presentation ref equals a ref. -/
def Pillar.grantWithRef (ref : Byte) (p : Pillar) : Option (Fin 8 × Grant) :=
  allSlots.findSome? (fun i =>
    (p.grant i).bind (fun g => if g.rider.any (fun r => r.ref = ref) then some (i, g) else none))

/-- R81: a CANCEL passed to the Grant Engine. -/
def Pillar.cancelRef (c : Ctx) (ref : Byte) (p : Pillar) : Pillar :=
  match p.grantWithRef ref with
  | some (i, g) => p.cancelGrant c i g
  | none => p

/-- R83: ABORT_GRANT taken for a grant that is not in RELOCK. -/
def Pillar.abortActive (c : Ctx) (i : Fin 8) (g : Grant) (p : Pillar) : Pillar :=
  match g.phase with
  | .open => p.grantRelock i { g with cancelPending := true } .cancel
  | _ => p.cancelGrant c i g

end Sys2Proof.Machine
end

