-- ==== Sys2Proof/Machine/FilterOps.lean ====
section
/-!
DEFINITION. The Presence Filter (spec/06): the feed of one scan reply (R109 to R115), the events its baseline brings
(R114, R115), and what a settings write does to the records (R117).
-/

namespace Sys2Proof.Machine

/-- R110: a record becomes not initialised; the last raw count is kept. -/
def Filter.uninitialise (f : Filter) : Filter := { Filter.fresh with lastRaw := f.lastRaw }

def Pillar.uninitFilter (d : DockNo) (p : Pillar) : Pillar := p.modFilter d Filter.uninitialise

/-- R111: the seed of a record from a raw count and the head's confirmed code. -/
def Filter.seed (w : Settings) (code : Code) (r : Nat) : Filter :=
  { Filter.fresh with
    initialised := true
    base := if code = .restHeld then r - w.seedOffset else r
    present := code = .restHeld
    lastRaw := some r }

/-- R112: d, the difference for the presence decision. -/
def Filter.diff (f : Filter) (r : Nat) : Nat := r - f.base

/-- R112, R113: the presence decision with its debounce. -/
def Filter.decide (w : Settings) (r : Nat) (f : Filter) : Filter :=
  if f.present then
    if f.diff r + w.hysteresis < w.bikeThreshold then
      if w.debounce ≤ f.offRun + 1 then { f with present := false, onRun := 0, offRun := 0 }
      else { f with offRun := f.offRun + 1 }
    else { f with offRun := 0 }
  else
    if w.bikeThreshold ≤ f.diff r then
      if w.debounce ≤ f.onRun + 1 then { f with present := true, onRun := 0, offRun := 0 }
      else { f with onRun := f.onRun + 1 }
    else { f with onRun := 0 }

/-- R114, R115: the counts of the baseline update. The rise at a full bucket and the reset after a full low-run are the
events BASELINE_RISE and BASELINE_RESET. -/
def Filter.follow (w : Settings) (r : Nat) (f : Filter) : Filter :=
  if f.base ≤ r then
    if r - f.base ≤ w.noiseThreshold then { f with bucket := f.bucket + (r - f.base), lowRun := 0 }
    else { f with lowRun := 0 }
  else
    if f.base - r ≤ w.negNoise then { f with base := f.base - 1, lowRun := 0 }
    else { f with lowRun := f.lowRun + 1 }

/-- R112: the update of an initialised record by a feeding reply; the decision and the baseline use the same old b. -/
def Filter.update (w : Settings) (r : Nat) (f : Filter) : Filter :=
  { (f.decide w r).follow w r with lastRaw := some r }

/-- R109, R111: a feeding reply. `before` is the head's confirmed code before the reply was applied, `after` the code as
the reply left it (R131). -/
def Filter.feed (w : Settings) (before after : Option Code) (r : Nat) (f : Filter) : Filter :=
  if f.initialised then f.update w r
  else
    match before, after with
    | some held, some code =>
      if held = .training ∨ code = .training then { f with lastRaw := some r } else .seed w code r
    | _, _ => { f with lastRaw := some r }

/-- R114: whether the bucket stands at BUCKET or above. -/
def Filter.riseDue (w : Settings) (f : Filter) : Bool := f.initialised && w.bucket ≤ f.bucket

/-- R114: b rises by 1, saturating at 65,535, and the bucket becomes 0. -/
def Filter.rise (f : Filter) : Filter := { f with base := min 65535 (f.base + 1), bucket := 0 }

/-- R115: whether low-run stands at LOW_RESET_SCANS or above. -/
def Filter.resetDue (w : Settings) (f : Filter) : Bool := f.initialised && w.lowResetScans ≤ f.lowRun

/-- R115: b becomes the raw count of the reply, and low-run and the bucket become 0. -/
def Filter.lowReset (f : Filter) : Filter := { f with base := f.lastRaw.getD f.base, lowRun := 0, bucket := 0 }

/-- R117: a write to BUCKET, LOW_RESET_SCANS or DEBOUNCE makes every count at or above the new bound 0. -/
def Filter.adjust (w : Settings) (f : Filter) : Filter :=
  if f.initialised then
    { f with
      bucket := if w.bucket ≤ f.bucket then 0 else f.bucket
      lowRun := if w.lowResetScans ≤ f.lowRun then 0 else f.lowRun
      onRun := if w.debounce ≤ f.onRun then 0 else f.onRun
      offRun := if w.debounce ≤ f.offRun then 0 else f.offRun }
  else f

/-- R117: the records are adjusted to the settings now in force. -/
def Pillar.adjustFilters (w : Settings) (p : Pillar) : Pillar := { p with filters := mapTable (Filter.adjust w) p.filters }

end Sys2Proof.Machine
end

