-- ==== Sys2Proof/Machine/RailOps.lean ====
section
/-!
DEFINITION. The Rail Controllers (spec/07, spec/08): the frame and its downstream fields (R121, R122), the scan and its
confirmation (R128 to R131), the message channel at a frame end (R134 to R140), the scheduling of the next frame (R125 to
R127), and the arbiter (R149, R150).
-/

namespace Sys2Proof.Machine

/-! ## The downstream fields (R122) -/

/-- R122: what a frame carries downstream. -/
structure Downstream where
  channelAddress : Nat
  channelData : Byte
  offer : Bool
  scanAddress : Nat
deriving DecidableEq, Repr

/-- The byte of the channel message at the byte position. -/
def Channel.byte (ch : Channel) : Byte :=
  match ch.msg with
  | some (m, _) => m.cmd.bytes.getD (ch.pos - 1) 0#8
  | none => 0#8

/-- R122: the downstream fields of the frame in progress. -/
def Rail.downstream (r : Rail) : Downstream :=
  let address := match r.chan.msg with
    | some (m, _) => headAddr m.dock
    | none => 0
  match r.chan.state with
  | .idle => { channelAddress := 0, channelData := 0#8, offer := false, scanAddress := r.scan.addr }
  | .offerFirst | .offer =>
    { channelAddress := address, channelData := r.chan.byte, offer := true, scanAddress := r.scan.addr }
  | .gap => { channelAddress := address, channelData := r.chan.byte, offer := false, scanAddress := r.scan.addr }
  | .ending | .closing =>
    { channelAddress := address, channelData := 0#8, offer := false, scanAddress := r.scan.addr }

/-! ## The message channel at a frame end -/

/-- The length of the message in the channel. -/
def Channel.length (ch : Channel) : Nat :=
  match ch.msg with
  | some (m, _) => m.cmd.bytes.length
  | none => 0

/-- R143: whether the byte offered is a pull byte, whose reply is kept and not checked. -/
def Channel.pulls (ch : Channel) : Bool :=
  match ch.msg with
  | some (m, _) => m.cmd.isTagRead && 4 ≤ ch.pos
  | none => false

/-- An outcome is decided, and the channel enters ENDING with the next frame. -/
def Channel.decided (o : ChanOutcome) (ch : Channel) : Channel :=
  { ch with outcome := some o, state := .ending, frames := 0, due := .none }

/-- R138: a frame of an offer without acknowledgement adds to the timeout count. -/
def Channel.missed (limit : Nat) (take : Bool) (ch : Channel) : Channel :=
  { ch with
    timeout := ch.timeout + 1
    offerTake := some take
    due := if limit ≤ ch.timeout + 1 then .timeout else .none }

/-- R134, R135, R139: the byte offered is acknowledged with a reply byte. -/
def Channel.acknowledged (reply : Byte) (ch : Channel) : Channel :=
  if ch.pulls = false ∧ reply ≠ ch.byte then ch.decided .echoError
  else
    let ch := { ch with
      replies := if ch.pulls then ch.replies ++ [reply] else ch.replies
      timeout := 0
      offerTake := none
      dropped := false }
    if ch.pos < ch.length then { ch with pos := ch.pos + 1, state := .gap } else ch.decided .done

/-- R134 to R138: the judgement of a frame's TAKE reading by the channel state, with no outcome decided before. -/
def Channel.judge (limit : Nat) (take : Bool) (reply : Byte) (ch : Channel) : Channel :=
  match ch.state with
  | .idle => ch
  | .offerFirst =>
    if take ∧ ch.offerTake = some false then ch.acknowledged reply else ch.missed limit take
  | .gap => { ch with state := .offer, offerTake := none, dropped := !take }
  | .offer =>
    if take then
      if ch.offerTake = some false then ch.acknowledged reply
      else { ch.missed limit true with dropped := false }
    else if ch.dropped then ch.decided .aborted
    else { ch.missed limit false with dropped := true }
  | .ending =>
    if ch.frames = 0 then { ch with frames := 1 }
    else if ch.outcome = some .done then { ch with state := .closing, frames := 0, dropped := false }
    else { ch with state := .idle }
  | .closing =>
    if take = false ∧ ch.dropped then { ch with state := .idle }
    else
      { ch with
        frames := ch.frames + 1
        dropped := !take
        due := if limit ≤ ch.frames + 1 then .closing else .none }

/-- R140: a controller abort asked for between two frame ends is due at this one, after the frame's judgement, unless
an outcome has been decided. -/
def Channel.abortAsked (ch : Channel) : Channel :=
  match ch.abort with
  | .asked => { ch with abort := if ch.outcome = none then .due else .none }
  | _ => ch

/-- R140: a controller abort acts on the message in the channel: with no outcome decided, ABORTED is decided and the
channel enters ENDING with the next frame; an outcome already decided stands. -/
def Channel.doAbort (ch : Channel) : Channel :=
  if ch.outcome = none then { ch.decided .aborted with abort := .none } else { ch with abort := .none }

/-- The channel at a frame end: the frame's reading is judged, and an abort asked for since the frame end before is due
after it (R140). -/
def Channel.frameEnd (limit : Nat) (take : Bool) (reply : Byte) (ch : Channel) : Channel :=
  (ch.judge limit take reply).abortAsked

/-- R129 step 3, R140: a silent report ends the message for its head; no outcome is delivered for it. -/
def Channel.silence (ch : Channel) : Channel :=
  let ch := { ch with orphan := true, abort := .none }
  match ch.outcome, ch.state with
  | none, .idle => ch
  | none, _ => ch.decided .aborted
  | some _, _ => ch

/-! ## The scan at a frame end -/

/-- R123, R151: what a scan reads at a delay; none is no answer. -/
def readScan (u : Upstream) (delay : Nat) : Option (Code × Nat) :=
  if u.scanWindow.getLsbD delay then
    u.scan.bind (fun reply => (codeOf reply.status).map (fun code => (code, reply.count.toNat)))
  else none

/-- R130: the confirmed and candidate codes after a scan that reads an answer with a code. -/
def Head.confirm (code : Code) (h : Head) : Head :=
  if h.confirmed = some code then { h with candidate := none }
  else if h.candidate = some code then { h with confirmed := some code, candidate := none }
  else { h with candidate := some code }

/-- R128, R130: a scan that reads no answer. -/
def Head.miss (h : Head) : Head := { h with missed := min Config.missedMax (h.missed + 1), candidate := none }

/-- R109: a reply feeds the filter record of its dock when its code is not TRAINING; a turn of the flag is raised for
the Dock Manager. -/
def Pillar.feedFilter (c : Ctx) (r : RailId) (d : DockNo) (before : Option Code) (code : Code) (raw : Nat)
    (p : Pillar) : Pillar :=
  if code = .training then p
  else
    let old := p.filter d
    let new := old.feed c.w before (p.head d).confirmed raw
    let p := p.setFilter d new
    if old.initialised ∧ old.present ≠ new.present then
      p.modRail r (fun x => { x with presenceDue := some (d, new.present) })
    else p

/-- R128 to R131: an ordinary scan of a fitted head, read at the delay the head had when the frame began (R132). -/
def Pillar.ordinaryScan (c : Ctx) (r : RailId) (d : DockNo) (u : Upstream) (p : Pillar) : Pillar :=
  let h := p.head d
  match readScan u (p.rail r).scanDelay with
  | none =>
    let p := p.setHead d h.miss
    if h.missed < Config.missedMax ∧ Config.missedMax ≤ h.miss.missed then
      p.modRail r (fun x => { x with silentDue := some d })
    else p
  | some (code, raw) =>
    let new := { h.confirm code with missed := 0 }
    let p := p.setHead d new
    let p :=
      if new.confirmed ≠ h.confirmed then p.modRail r (fun x => { x with codeDue := some (d, h.confirmed.isNone) })
      else p
    p.feedFilter c r d h.confirmed code raw

/-- R154: the reading of a sweep scan is good when it is an answer with code TRAINING and raw count A55A hex. -/
def sweepGood (reading : Option (Code × Nat)) : Bool := reading = some (.training, 0xA55A)

/-- R154: one sweep scan is made. -/
def Training.sweepScan (isGood : Bool) (t : Training) : Training :=
  if t.scans % 2 = 0 then { t with scans := t.scans + 1, firstGood := isGood }
  else
    { t with
      scans := t.scans + 1
      good := if t.firstGood && isGood then t.good ||| (1#32 <<< (t.scans / 2)) else t.good }

/-- R154, R109: a training sweep scan, read at the trial delay; it leaves the missed-scan count and both codes as they
were, and feeds the filter like any scan. -/
def Pillar.sweepScan (c : Ctx) (r : RailId) (d : DockNo) (t : Training) (u : Upstream) (p : Pillar) : Pillar :=
  let reading := readScan u (p.rail r).scanDelay
  let p := p.modRail r (fun x => { x with training := some (t.sweepScan (sweepGood reading)) })
  match reading with
  | none => p
  | some (code, raw) => p.feedFilter c r d (p.head d).confirmed code raw

/-- R128: the scan of the frame that ends is applied. A scan of an unfitted head is not read. -/
def Pillar.scanEnd (c : Ctx) (r : RailId) (u : Upstream) (p : Pillar) : Pillar :=
  match dockAt r (p.rail r).scan.addr with
  | none => p
  | some d =>
    if p.isFitted d then
      match (p.rail r).scan.kind with
      | .vacant => p
      | .sweep =>
        match (p.rail r).training with
        | some t => p.sweepScan c r d t u
        | none => p.ordinaryScan c r d u
      | _ => p.ordinaryScan c r d u
    else p

/-- R123: the head named by the attention field; a field that names an unfitted head is read as none. -/
def Pillar.attentionOf (r : RailId) (u : Upstream) (p : Pillar) : Option DockNo :=
  (dockAt r u.attention.toNat).filter (fun d => p.isFitted d)

/-! ## The frame end (R121) -/

/-- R123: the TAKE flag and the reply byte as read at the delay that the head the channel addresses had when the frame
began (R132). -/
def Rail.readChannel (u : Upstream) (r : Rail) : Bool × Byte :=
  if r.chan.msg.isSome ∧ u.channelWindow.getLsbD r.chanDelay then (u.take, u.reply) else (false, 0#8)

/-- R141, R149, R150: the quiet count, and what a frame end with an idle channel brings. -/
def Rail.quietEnd (wasIdle : Bool) (r : Rail) : Rail :=
  if wasIdle then
    let q := min Config.quietMax (r.quiet + 1)
    { r with quiet := q, restoreDue := r.quiet < Config.quietRestore && q = Config.quietRestore, arbiterDue := true }
  else if r.chan.state = .idle then { r with quiet := 0 }
  else r

/-- R125: the first scan of a running pair has been made in the frame that ends. -/
def Rail.pairEnd (r : Rail) : Rail := { r with pair := r.pair.map (fun x => { x with firstMade := true }) }

/-- R121: at the end of a frame the controller applies what it read to the scan and to the message channel, and the next
frame is to be scheduled. `early` says that a controller abort was asked for in the step of this frame end and is taken
before the frame's judgement, whose reading is then disregarded (R140). -/
def Pillar.frameEnd (c : Ctx) (r : RailId) (early : Bool) (u : Upstream) (p : Pillar) : Pillar :=
  let attention := p.attentionOf r u
  let reading := (p.rail r).readChannel u
  let wasIdle := decide ((p.rail r).chan.state = .idle)
  let p := p.scanEnd c r u
  p.modRail r (fun x =>
    Rail.quietEnd wasIdle
      { x.pairEnd with
        attention := attention
        frameDue := true
        chan := if early then x.chan.doAbort else x.chan.frameEnd c.w.channelTimeout reading.1 reading.2 })

/-! ## Scheduling (R125 to R127) -/

/-- R127: the next fitted head above the pointer in address order, or the lowest fitted head. -/
def Pillar.roundRobin (r : RailId) (p : Pillar) : Option DockNo :=
  let fitted := (railDocks r).filter (fun d => p.isFitted d)
  (fitted.find? (fun d => (p.rail r).pointer < headAddr d)).or fitted.head?

/-- R127: the round-robin scan, which moves the pointer; with no fitted head the scan address is the pointer's value, or
1 when the pointer is 0. -/
def Pillar.scheduleRoundRobin (r : RailId) (p : Pillar) : Pillar :=
  match p.roundRobin r with
  | some d =>
    p.modRail r (fun x => { x with pointer := headAddr d, scan := { addr := headAddr d, kind := .roundRobin } })
  | none =>
    p.modRail r (fun x =>
      { x with scan := { addr := if x.pointer = 0 then 1 else x.pointer, kind := .vacant } })

/-- R123, R154: the delay at which the scan now scheduled is read: the trial delay of a sweep scan, the sample delay of
the head for any other. -/
def Pillar.delayOfScan (r : RailId) (p : Pillar) : Nat :=
  match (p.rail r).scan.kind, (p.rail r).training, dockAt r (p.rail r).scan.addr with
  | .sweep, some t, _ => t.scans / 2
  | _, _, some d => (p.head d).delay
  | _, _, none => 0

/-- R123: the delay at which the channel reply is read: the sample delay of the head the channel addresses. -/
def Pillar.delayOfChannel (r : RailId) (p : Pillar) : Nat :=
  match (p.rail r).chan.msg with
  | some (m, _) => (p.head m.dock).delay
  | none => 0

/-- R132, R151: the next frame begins, and is read with the delays that stand at this moment. -/
def Pillar.beginFrame (r : RailId) (p : Pillar) : Pillar :=
  p.modRail r (fun x => { x with frameDue := false, scanDelay := p.delayOfScan r, chanDelay := p.delayOfChannel r })

/-- R125: the head the next frame scans, by the first case that applies. -/
def Pillar.schedule (r : RailId) (p : Pillar) : Pillar :=
  let x := p.rail r
  let attended := x.attention.filter (fun d => p.isFitted d)
  let second := x.pair.filter (fun pair => pair.firstMade)
  let p :=
    match second, attended, x.training with
    | some pair, _, _ =>
      p.modRail r (fun x => { x with pair := none, scan := { addr := headAddr pair.dock, kind := .pair } })
    | none, some d, _ =>
      p.modRail r (fun x =>
        { x with pair := some { dock := d, firstMade := false }, scan := { addr := headAddr d, kind := .pair } })
    | none, none, some t =>
      p.modRail r (fun x =>
        { x with
          scan :=
            { addr := headAddr t.dock
              kind := if t.step = TrainStep.sweep then ScanKind.sweep else ScanKind.training } })
    | none, none, none => p.scheduleRoundRobin r
  p.beginFrame r

/-! ## The arbiter (R149, R150) -/

/-- R145: the threshold of a source at its level. -/
def Rail.threshold (r : Rail) : Source → Nat
  | .safety => 2
  | .station => if r.stationLow then 6 else 4
  | .rider => if r.riderLow then 7 else 5
  | .upkeep => 6

/-- R150, R157: a RELEASE, RELOCK, LAMP or TAG_READ for the head under training does not contend. -/
def Rail.mayContend (r : Rail) (m : Msg) : Bool :=
  match m.cmd with
  | .trainOn | .trainOff _ => true
  | _ => !(r.training.any (fun t => t.dock = m.dock))

/-- R150: the contending message of a source. -/
def Rail.contending (r : Rail) (s : Source) : Option Msg := (r.queue s).find? (fun m => r.mayContend m)

/-- R150: the sources in the order in which equal thresholds give way. -/
def sourceOrder : List Source := [.safety, .station, .rider, .upkeep]

/-- R150: the better of two candidates: the smaller threshold, and the earlier source where they are equal. -/
def Rail.better (r : Rail) (best : Option (Source × Msg)) (s : Source) : Option (Source × Msg) :=
  match r.contending s with
  | none => best
  | some m =>
    if r.threshold s ≤ r.quiet then
      match best with
      | none => some (s, m)
      | some (s', m') => if r.threshold s < r.threshold s' then some (s, m) else some (s', m')
    else best

/-- R150: the message the arbiter hands the channel, with its source. -/
def Rail.arbitrate (r : Rail) : Option (Source × Msg) := sourceOrder.foldl r.better none

/-- R133: the channel takes a message. -/
def Channel.carry (s : Source) (m : Msg) : Channel :=
  { Channel.idle with state := .offerFirst, msg := some (m, s), pos := 1 }

/-- R149: the quiet count has reached 8, and both levels become NORMAL. -/
def Rail.restoreLevels (r : Rail) : Rail := { r with stationLow := false, riderLow := false, restoreDue := false }

/-- R149: a message from a source completes: STATION or RIDER becomes LOWERED, and every other source NORMAL. -/
def Rail.completeFrom (s : Source) (r : Rail) : Rail := { r with stationLow := s = .station, riderLow := s = .rider }

/-- R69: the hand-off of a grant's RELEASE moves the grant from QUEUED to SENDING. -/
def Pillar.grantSending (m : Msg) (p : Pillar) : Pillar :=
  match m.cmd with
  | .release id =>
    match p.findGrant id with
    | some (i, g) =>
      if g.phase = .queued ∧ g.dock = m.dock then p.setGrant i (some { g with phase := .sending }) else p
    | none => p
  | _ => p

/-- R150: the arbiter applies a restore still due, and hands the channel to the contending message with the smallest
threshold, if any. -/
def Pillar.handOff (r : RailId) (p : Pillar) : Pillar :=
  let p := p.modRail r (fun x => { (if x.restoreDue then x.restoreLevels else x) with arbiterDue := false })
  match (p.rail r).arbitrate with
  | none => p
  | some (s, m) =>
    (p.modRail r (fun x => { x.setQueue s ((x.queue s).erase m) with chan := Channel.carry s m })).grantSending m

end Sys2Proof.Machine
end

