-- ==== Sys2Proof/Machine/Training.lean ====
section
/-!
DEFINITION. Timing training (R152 to R157) and the stray TRAIN_OFF of a head that training does not name (R158).
-/

namespace Sys2Proof.Machine

/-- R157: whether a head is the head under training of its rail. -/
def Pillar.underTraining (d : DockNo) (p : Pillar) : Bool := (p.rail (railOf d)).training.any (fun t => t.dock = d)

/-- The fitted heads of a rail in address order. -/
def Pillar.fittedDocks (r : RailId) (p : Pillar) : List DockNo := (railDocks r).filter (fun d => p.isFitted d)

/-! ## The stray TRAIN_OFF (R158) -/

def Cmd.isStray : Cmd → Bool
  | .trainOff stray => stray
  | _ => false

/-- R158: a stray TRAIN_OFF joins the tail of UPKEEP, unless the head's mark is already set. -/
def Pillar.placeStray (d : DockNo) (p : Pillar) : Pillar :=
  if (p.head d).stray then p
  else (p.modHead d (fun h => { h with stray := true })).join .upkeep { cmd := .trainOff true, dock := d }

/-- R158: a head that is not the head under training and whose confirmed code is TRAINING is sent a stray
TRAIN_OFF. -/
def Pillar.checkStray (d : DockNo) (p : Pillar) : Pillar :=
  if (p.head d).confirmed = some .training ∧ p.underTraining d = false then p.placeStray d else p

/-- R158: a head that becomes the head under training has its waiting stray TRAIN_OFF withdrawn and the mark
cleared. One already in the channel keeps its mark until its outcome is delivered. -/
def Pillar.withdrawStray (d : DockNo) (p : Pillar) : Pillar :=
  if p.waits d Cmd.isStray then
    (p.modRail (railOf d) (Rail.withdraw (fun m => m.dock = d && m.cmd.isStray))).modHead d
      (fun h => { h with stray := false })
  else p

/-- R158: the outcome of a stray TRAIN_OFF clears the mark, and one more is placed while the head still needs it. -/
def Pillar.strayOutcome (d : DockNo) (p : Pillar) : Pillar :=
  (p.modHead d (fun h => { h with stray := false })).checkStray d

/-! ## The course of training -/

/-- R153 step 2: the training of a head as its TRAIN_ON step begins. -/
def Training.start (d : DockNo) : Training where
  dock := d
  step := .on
  attempt := 1
  deadline := none
  scans := 0
  firstGood := false
  good := 0#32
  result := .none

def Pillar.setTraining (r : RailId) (t : Option Training) (p : Pillar) : Pillar :=
  p.modRail r (fun x => { x with training := t })

/-- R156: the training of a head ends with a result; its filter record becomes not initialised. -/
def Pillar.endHead (r : RailId) (d : DockNo) (result : TrainResult) (p : Pillar) : Pillar :=
  let p := (p.setTraining r none).modHead d (fun h => { h with lastTraining := result })
  (p.uninitFilter d).checkStray d

/-- R153, R156: training takes the next of the heads still to be trained; a head whose missed-scan count stands at 8 is
skipped with result FAILED. With no head left training is IDLE. -/
def Pillar.trainNext (r : RailId) : List DockNo → Pillar → Pillar
  | [], p => p.setTraining r none
  | d :: rest, p =>
    let p := (p.withdrawStray d).setTraining r (some (.start d))
    if Config.missedMax ≤ (p.head d).missed then Pillar.trainNext r rest (p.endHead r d .failed)
    else p.join .upkeep { cmd := .trainOn, dock := d }

/-- R152: training of a rail starts with its lowest fitted head. -/
def Pillar.trainRail (r : RailId) (p : Pillar) : Pillar := p.trainNext r (p.fittedDocks r)

/-- R156: the training of a head ends, and training takes the next fitted head above it in address order. -/
def Pillar.finishHead (r : RailId) (d : DockNo) (result : TrainResult) (p : Pillar) : Pillar :=
  let p := p.endHead r d result
  p.trainNext r ((p.fittedDocks r).filter (fun e => decide (d < e)))

/-- The message of a step that is placed again (R147, R153, R156). -/
def TrainStep.cmd : TrainStep → Cmd
  | .on => .trainOn
  | .sweep => .trainOn
  | .off => .trainOff false

/-- R155, R156: training goes to the head's TRAIN_OFF step with the result decided. -/
def Pillar.trainOffStep (r : RailId) (t : Training) (result : TrainResult) (p : Pillar) : Pillar :=
  (p.setTraining r (some { t with step := .off, attempt := 1, deadline := none, result := result })).join .upkeep
    { cmd := .trainOff false, dock := t.dock }

/-- R153 step 4, R156: an attempt of the step fails. -/
def Pillar.trainAttemptFailed (r : RailId) (t : Training) (p : Pillar) : Pillar :=
  if t.attempt < 3 then
    (p.setTraining r (some { t with attempt := t.attempt + 1, deadline := none })).placeAgain .upkeep
      { cmd := t.step.cmd, dock := t.dock }
  else
    match t.step with
    | .on => p.trainOffStep r t .failed
    | .sweep => p
    | .off => p.finishHead r t.dock .failed

/-- R153, R156: whether the confirmed code of the head confirms the step. -/
def TrainStep.confirmedBy (s : TrainStep) (code : Option Code) : Bool :=
  match s with
  | .on => code = some .training
  | .sweep => false
  | .off => code.isSome && code != some .training

/-- R153, R154, R156: the step is confirmed. -/
def Pillar.trainConfirmed (r : RailId) (t : Training) (p : Pillar) : Pillar :=
  match t.step with
  | .on => p.setTraining r (some { t with step := .sweep, deadline := none, scans := 0, firstGood := false, good := 0#32 })
  | .sweep => p
  | .off => p.finishHead r t.dock t.result

/-- R153 step 3, R156: the outcome of the TRAIN_ON or TRAIN_OFF of the step is delivered. -/
def Pillar.trainOutcome (c : Ctx) (r : RailId) (m : Msg) (outcome : ChanOutcome) (p : Pillar) : Pillar :=
  match (p.rail r).training with
  | none => p
  | some t =>
    if t.dock = m.dock ∧ t.step ≠ .sweep ∧ t.step.cmd = m.cmd then
      if t.step.confirmedBy (p.head t.dock).confirmed then p.trainConfirmed r t
      else if outcome = .done then p.setTraining r (some { t with deadline := some c.w.confirmTimeout })
      else p.trainAttemptFailed r t
    else p

/-- R153 step 3, R156: a code confirmed for the head under training while the confirm deadline runs. -/
def Pillar.trainCode (d : DockNo) (p : Pillar) : Pillar :=
  match (p.rail (railOf d)).training with
  | none => p
  | some t =>
    if t.dock = d ∧ t.deadline.isSome ∧ t.step.confirmedBy (p.head d).confirmed then p.trainConfirmed (railOf d) t
    else p

/-- R157: a silent report for the head under training ends its training with result FAILED. -/
def Pillar.trainSilent (d : DockNo) (p : Pillar) : Pillar :=
  if p.underTraining d then p.finishHead (railOf d) d .failed else p

/-! ## The sweep (R154, R155) -/

/-- R155: the lowest run of good delays, from lo to hi. -/
def goodRun (good : BitVec 32) : Option (Nat × Nat) :=
  ((List.range 32).find? (fun n => good.getLsbD n)).map (fun lo =>
    (lo, lo + (((List.range 32).drop lo).takeWhile (fun n => good.getLsbD n)).length - 1))

/-- R155: whether the 64 sweep scans have been made. -/
def Rail.sweepDone (r : Rail) : Bool :=
  r.training.any (fun t => t.step = .sweep && Config.sweepScans ≤ t.scans)

/-- R155: the sweep ends: the head's delay and result are decided from the good delays. -/
def Pillar.endSweep (r : RailId) (p : Pillar) : Pillar :=
  match (p.rail r).training with
  | none => p
  | some t =>
    match goodRun t.good with
    | some (lo, hi) => (p.modHead t.dock (fun h => { h with delay := (lo + hi) / 2 })).trainOffStep r t .passed
    | none => p.trainOffStep r t .failed

/-- R153 step 3: whether the confirm deadline of training has expired. -/
def Rail.trainExpired (r : Rail) : Bool := r.training.any (fun t => t.deadline = some 0)

/-- R153 step 4: the expiry of the deadline fails the attempt. -/
def Pillar.trainExpire (r : RailId) (p : Pillar) : Pillar :=
  match (p.rail r).training with
  | none => p
  | some t => p.trainAttemptFailed r t

end Sys2Proof.Machine
end

