-- ==== Sys2Proof/Machine/Events.lean ====
section
/-!
DEFINITION. The events of the rails, the docks and the grants that a frame end or a ms tick brings: for each, when it is
due and what it does. An event row of the opcode table takes one of them; `Machine/Settle.lean` takes all that are due.
-/

namespace Sys2Proof.Machine

/-! ## Events of the Presence Filter (R114, R115, R118) -/

def Pillar.riseDue (c : Ctx) (d : DockNo) (p : Pillar) : Bool := (p.filter d).riseDue c.w

def Pillar.rise (d : DockNo) (p : Pillar) : Pillar := p.modFilter d Filter.rise

def Pillar.resetDue (c : Ctx) (d : DockNo) (p : Pillar) : Bool := (p.filter d).resetDue c.w

def Pillar.lowReset (d : DockNo) (p : Pillar) : Pillar := p.modFilter d Filter.lowReset

/-- R118: whether the flag of a dock turned, to present or to absent. -/
def Pillar.presenceDue (d : DockNo) (present : Bool) (p : Pillar) : Bool :=
  (p.rail (railOf d)).presenceDue = some (d, present)

def Pillar.takePresence (d : DockNo) (p : Pillar) : Pillar :=
  p.modRail (railOf d) (fun x => { x with presenceDue := none })

/-- R43, R118: a present event. For a held dock it changes nothing (R77, R78). -/
def Pillar.presentEvent (c : Ctx) (d : DockNo) (p : Pillar) : Pillar :=
  let p := p.takePresence d
  match p.grantOf d with
  | some _ => p
  | none => p.dockPresent c d

/-- R43, R118: an absent event. -/
def Pillar.absentEvent (c : Ctx) (d : DockNo) (p : Pillar) : Pillar :=
  let p := p.takePresence d
  match p.grantOf d with
  | some (i, g) => p.grantAbsent c i g
  | none => p.dockAbsent d

/-! ## Confirmed codes (R43, R44, R49, R131) -/

/-- R131: whether a code was confirmed for a dock's head, as its first code or as a change. -/
def Pillar.codeDue (d : DockNo) (first : Bool) (p : Pillar) : Bool :=
  (p.rail (railOf d)).codeDue = some (d, first)

/-- R131, R43: a confirmed code reaches the Grant Engine when a grant holds the dock and the Dock Manager otherwise;
training reads it (R153, R156), and a head left in training mode is sent a stray TRAIN_OFF (R158). A code that also ends
the head's training, and so makes its filter record not initialised (R110), is handled for the dock or the grant first,
which read the flag as it stood before (DESIGN CHOICE, entry 35). -/
def Pillar.codeEvent (c : Ctx) (d : DockNo) (p : Pillar) : Pillar :=
  let p := p.modRail (railOf d) (fun x => { x with codeDue := none })
  match (p.head d).confirmed with
  | none => p
  | some code =>
    let p :=
      match p.grantOf d with
      | some (i, g) => p.grantCode c i g code
      | none => p.dockCode c d code
    (p.trainCode d).checkStray d

/-! ## Silent reports (R47, R84, R129, R148) -/

/-- R128: whether a silent report is due for a dock's head. -/
def Pillar.silentDue (d : DockNo) (p : Pillar) : Bool := (p.rail (railOf d)).silentDue = some d

/-- R129, R148: what a silent report does on the rail: the head's codes become none, its stray TRAIN_OFF mark is
cleared, its waiting messages are removed, one in the channel is ended (R140), and the head's filter record becomes not
initialised (R110). A change event still to be delivered does not come (R47). -/
def Pillar.silentRail (d : DockNo) (p : Pillar) : Pillar :=
  let p := p.modHead d (fun h => { h with confirmed := none, candidate := none, stray := false })
  let p := p.modRail (railOf d) (fun x =>
    let x := x.withdraw (fun m => m.dock = d)
    { x with
      silentDue := none
      codeDue := x.codeDue.filter (fun e => e.1 != d)
      chan := if x.chan.msg.any (fun e => e.1.dock = d) then x.chan.silence else x.chan })
  p.uninitFilter d

/-- R47, R129: what a silent report does to the dock, outside FAULT and in it. The head of an UNFITTED dock is not scanned
and brings no silent report (R59, R128); its dock stays as it is. -/
def Pillar.silentDock (c : Ctx) (d : DockNo) (p : Pillar) : Pillar :=
  if (p.dock d).state = .unfitted then p
  else if (p.dock d).state = .fault then p.modDock d (fun k => { k with relock := none })
  else
    let p := (p.lesser c (.dockFault d .silent)).enterState d .silent
    p.modDock d (fun k => { k with relock := none, ident := none, recovery := false, grant := none })

/-- R129: a silent report, with the grant on the dock (R84) and the training of the head (R157). -/
def Pillar.silentReport (c : Ctx) (d : DockNo) (p : Pillar) : Pillar :=
  let held := p.grantOf d
  let p := (p.silentRail d).silentDock c d
  let p :=
    match held with
    | some (i, g) => p.grantSilent c i g
    | none => p
  p.trainSilent d

/-! ## The message channel (R136, R138, R140, R141, R149, R150) -/

/-- R138: whether the byte offered has reached CHANNEL_TIMEOUT. -/
def Pillar.chanTimeoutDue (r : RailId) (p : Pillar) : Bool := (p.rail r).chan.due = .timeout

/-- R138: outcome TIMEOUT is decided, and the channel enters ENDING with the next frame. -/
def Pillar.chanTimeout (r : RailId) (p : Pillar) : Pillar :=
  p.modRail r (fun x => { x with chan := x.chan.decided .timeout })

/-- R136: whether CLOSING has lasted CHANNEL_TIMEOUT frames. -/
def Pillar.closingTimeoutDue (r : RailId) (p : Pillar) : Bool := (p.rail r).chan.due = .closing

/-- R136, R141: the channel enters IDLE although TAKE has not been seen inactive, and q becomes 0. -/
def Pillar.closingTimeout (r : RailId) (p : Pillar) : Pillar :=
  p.modRail r (fun x => { x with quiet := 0, chan := { x.chan with state := .idle, due := .none } })

/-- R140: whether a controller abort acts at the frame end just made, after that frame's judgement; a timeout the frame
brought is part of its judgement. -/
def Pillar.abortDue (r : RailId) (p : Pillar) : Bool := (p.rail r).chan.abort = .due && (p.rail r).chan.due ≠ .timeout

/-- R140: the controller abort acts. -/
def Pillar.chanAbort (r : RailId) (p : Pillar) : Pillar := p.modRail r (fun x => { x with chan := x.chan.doAbort })

/-- R141: whether the channel has entered IDLE with a message whose outcome is still to be delivered. -/
def Pillar.outcomeDue (r : RailId) (p : Pillar) : Bool :=
  (p.rail r).chan.state = .idle && (p.rail r).chan.msg.isSome

/-- R141: the outcome of a message is delivered to its owner. -/
def Pillar.deliver (c : Ctx) (m : Msg) (outcome : ChanOutcome) (replies : List Byte) (p : Pillar) : Pillar :=
  match m.cmd with
  | .release id => p.releaseOutcome c id m.dock outcome
  | .relock => p.relockOutcome c m.dock outcome
  | .lamp _ => p
  | .tagRead => p.tagOutcome c m.dock (tagRead outcome replies)
  | .trainOn => p.trainOutcome c (railOf m.dock) m outcome
  | .trainOff stray => if stray then p.strayOutcome m.dock else p.trainOutcome c (railOf m.dock) m outcome

/-- R141, R149: the message has left the channel; the levels change, and its outcome is delivered unless its owner has
withdrawn its interest. -/
def Pillar.channelOutcome (c : Ctx) (r : RailId) (p : Pillar) : Pillar :=
  match (p.rail r).chan.msg, (p.rail r).chan.outcome with
  | some (m, source), some outcome =>
    let chan := (p.rail r).chan
    let p := p.modRail r (fun x => { x with chan := Channel.idle }.completeFrom source)
    if chan.orphan then p else p.deliver c m outcome chan.replies
  | _, _ => p.modRail r (fun x => { x with chan := Channel.idle })

/-- R149: whether the quiet count has risen to 8. -/
def Pillar.restoreDue (r : RailId) (p : Pillar) : Bool := (p.rail r).restoreDue

def Pillar.restore (r : RailId) (p : Pillar) : Pillar := p.modRail r Rail.restoreLevels

/-- R150: whether the arbiter is to look at its queues. -/
def Pillar.arbiterDue (r : RailId) (p : Pillar) : Bool := (p.rail r).arbiterDue

/-! ## Training -/

def Pillar.sweepDue (r : RailId) (p : Pillar) : Bool := (p.rail r).sweepDone

def Pillar.trainDue (r : RailId) (p : Pillar) : Bool := (p.rail r).trainExpired

/-! ## Deadlines of docks and grants -/

/-- R105: whether the POOR_DOCK timer of a dock has expired. -/
def Pillar.poorDue (d : DockNo) (p : Pillar) : Bool := (p.dock d).watch = some 0

/-- R45: whether the confirm deadline of a dock's relock without a grant has expired. -/
def Pillar.relockDue (d : DockNo) (p : Pillar) : Bool := (p.dock d).relock.any (fun k => k.deadline = some 0)

/-- Whether the deadline of the grant with an id has expired in a phase. -/
def Pillar.grantDue (id : Nat) (phase : Phase) (p : Pillar) : Bool :=
  match p.findGrant id with
  | some (_, g) => g.phase = phase && g.timer = some 0
  | none => false

/-- R70, R71: the confirm deadline of a grant in CONFIRMING expires, and the release attempt fails. -/
def Pillar.confirmExpiry (c : Ctx) (id : Nat) (p : Pillar) : Pillar :=
  match p.findGrant id with
  | some (i, g) => p.releaseFailed c i g
  | none => p

/-- R77: the pull deadline of a grant in OPEN expires, and the grant enters RELOCK with cause PULL. -/
def Pillar.pullExpiry (id : Nat) (p : Pillar) : Pillar :=
  match p.findGrant id with
  | some (i, g) => p.grantRelock i g .pull
  | none => p

/-- R78: the confirm deadline of a grant in RELOCK expires, and the relock attempt fails. -/
def Pillar.relockExpiry (c : Ctx) (id : Nat) (p : Pillar) : Pillar :=
  match p.findGrant id with
  | some (i, g) => p.grantRelockAttemptFailed c i g
  | none => p

end Sys2Proof.Machine
end

