-- ==== Sys2Proof/Machine/ClockOps.lean ====
section
/-!
DEFINITION. The Station Clock (spec/02): the ms tick of the clock (R22, R23, R27, R31), the time sets (R32 to R34), the
reference pulse (R24 to R26), and what a change of the clock brings in the other blocks: the restart mark (R36), the
CLOCK record (R29) and the second boundary (R37).
-/

namespace Sys2Proof.Machine

/-! ## The context of an event -/

/-- What the events of the pillar read of the other blocks at this moment. -/
def State.ctx (s : State) : Ctx where
  w := s.store.work
  stamp := if s.clock.labelled then some s.clock.sec else none
  offline := !s.link.online
  clockUsable := s.clock.usable s.store.work.uncertaintyLimit
  inService := s.store.inService

/-- One event of the pillar, in the context of this moment. -/
def State.event (f : Ctx → Pillar → Pillar) (s : State) : State :=
  { s with pillar := s.pillar.event s.ctx (f s.ctx) }

/-! ## Derivation and installation -/

/-- R28: the clock state derived again; the locked-since-label mark is set when it is LOCKED. -/
def Clock.derive (k : Clock) : Clock :=
  let state := deriveClock k.labelled k.k k.lockedMark
  { k with state := state, lockedMark := k.lockedMark || state = .locked }

/-- R35: H becomes now when now is greater. -/
def Clock.raiseHigh (k : Clock) : Clock := { k with high := max k.high k.now }

/-- R11: pruning removes the spent-list entries with no grant id whose window has certainly closed. -/
def Pillar.prune (k : Clock) (p : Pillar) : Pillar :=
  { p with spent := p.spent.filter (fun e => e.grant.isSome || !k.expired e.notAfter) }

/-- R29, R37: what a change of the clock brings: the CLOCK record when the clock state changed, then the second boundary
when S increased. -/
def Pillar.clockChanged (c : Ctx) (old new : Clock) (p : Pillar) : Pillar :=
  let p := if new.state ≠ old.state then p.lesser c (.clock new.state) else p
  if old.sec < new.sec then (p.prune new).lapse c new.sec else p

/-- R36: the restart mark after a change of the clock; it is set at the first label. -/
def restartMark (old new : Clock) (mark : Nat) : Nat :=
  if !old.labelled && new.labelled then new.sec - new.ticks / 1000 else mark

/-- The clock takes a new value, with all that follows in the other blocks. -/
def State.setClock (new : Clock) (s : State) : State :=
  let old := s.clock
  let s := { s with clock := new, tcu := { s.tcu with mark := restartMark old new s.tcu.mark } }
  if new.state ≠ old.state ∨ old.sec < new.sec then s.event (fun c => Pillar.clockChanged c old new) else s

/-! ## The ms tick (R22, R23, R27, R31, R34) -/

/-- R22: the length of the millisecond in progress, in oscillator cycles. -/
def Clock.msLength (k : Clock) : Nat := k.msTrim / 256 + (if 256 ≤ k.acc + k.msTrim % 256 then 1 else 0)

/-- R23: m and S at an ms tick. -/
def Clock.advance (k : Clock) : Clock :=
  if k.labelled then
    if k.ms < 999 then { k with ms := k.ms + 1 }
    else if k.sec < Config.secondMax then { k with ms := 0, sec := k.sec + 1 }
    else k
  else k

/-- R31: the growth count at an ms tick; `limit` is HOLDOVER_GROWTH × 1000. -/
def Clock.grow (limit : Nat) (k : Clock) : Clock :=
  if k.labelled ∧ k.k = 0 then { k with growth := k.growth + 1, growthDue := limit ≤ k.growth + 1 }
  else { k with growth := 0, growthDue := false }

/-- R22, R24: the millisecond in progress ends: its cycles are counted for the pulse, and the next begins under T. -/
def Clock.nextMs (k : Clock) : Clock :=
  { k with
    pulse := k.pulse.map (fun n => n + (k.msLength - k.elapsed))
    acc := (k.acc + k.msTrim % 256) % 256
    msTrim := k.trim
    elapsed := 0 }

/-- The Station Clock at an ms tick. -/
def Clock.tick (limit : Nat) (k : Clock) : Clock :=
  let k := (k.nextMs.advance.raiseHigh).grow limit
  { k with
    ticks := k.ticks + 1
    absence := min Config.absenceMax (k.absence + 1)
    aligned := k.aligned.map (fun a => { a with expiry := a.expiry + 1 }) }

/-- R27: whether the absence count has reached 3,000 with k still to become 0. -/
def Clock.absenceDue (k : Clock) : Bool := k.k ≠ 0 && Config.absenceMax ≤ k.absence

/-- R27, R31: k becomes 0; the growth count starts again when k was not 0. -/
def Clock.unlock (k : Clock) : Clock :=
  if k.k = 0 then k else Clock.derive { k with k := 0, growth := 0, growthDue := false }

/-- R31: the growth step. -/
def Clock.growthStep (k : Clock) : Clock :=
  { k with unc := min Config.uncertaintyMax (k.unc + 1), growth := 0, growthDue := false }

/-! ## Setting the time (R32 to R34) -/

/-- The label of a time set: S, with the uncertainties given; a forced-back set takes H with it (R35). -/
def Clock.label (seconds labelUnc unc : Nat) (forcedBack : Bool) (k : Clock) : Clock :=
  Clock.derive
    { k with
      sec := seconds
      ms := 0
      labelUnc := labelUnc
      unc := unc
      labelled := true
      lockedMark := false
      growth := 0
      growthDue := false
      aligned := none
      high := if forcedBack then seconds * 1000 else max k.high (seconds * 1000) }

/-- R32, R34: an IMMEDIATE set is applied, with the working value of SET_UNCERTAINTY. -/
def Clock.setImmediate (setUnc seconds : Nat) (forcedBack : Bool) (k : Clock) : Clock :=
  k.label seconds setUnc setUnc forcedBack

/-- R34: whether the expiry count of a pending aligned set has reached 2,000. -/
def Clock.alignedDue (k : Clock) : Bool := k.aligned.any (fun a => Config.alignedExpiry ≤ a.expiry)

/-- R34: a pending aligned set is applied as an IMMEDIATE set. -/
def Clock.alignedExpire (setUnc : Nat) (k : Clock) : Clock :=
  match k.aligned with
  | some a => k.setImmediate setUnc a.seconds a.forcedBack
  | none => k

/-- R32: whether seconds is less than S − 2 of a labelled clock. -/
def Clock.backward (seconds : Nat) (k : Clock) : Bool := k.labelled && seconds + 2 < k.sec

/-! ## Reference pulses (R24 to R26) -/

/-- R25: the trim that would have made the interval 1,000 milliseconds, rounded to the nearest with a half up. -/
def trimTarget (cycles : Nat) : Nat := (cycles * 64 + 125) / 250

/-- R25: the trim update, with the step and the range clamped. -/
def trimUpdate (trim cycles : Nat) : Nat :=
  clamp (Config.trimMin, Config.trimMax)
    (clamp (trim - Config.trimStepMax, trim + Config.trimStepMax) (trimTarget cycles))

/-- A new millisecond begins at a pulse, under the trim just updated (R26, R33). -/
def Clock.restartMs (k : Clock) : Clock := { k with ms := 0, acc := 0, msTrim := k.trim, elapsed := 0 }

/-- R27: k rises by 1 and saturates at 255. -/
def Clock.countLock (k : Clock) : Clock := { k with k := min 255 (k.k + 1) }

/-- R26: the phase correction. -/
def Clock.correctPhase (k : Clock) : Clock :=
  let late := k.ms < 500
  let e := if late then k.ms else 1000 - k.ms
  let sec := if late then k.sec else min Config.secondMax (k.sec + 1)
  let k := { k with sec := sec, unc := min Config.uncertaintyMax (k.labelUnc + e + 1), growth := 0, growthDue := false }
  (k.restartMs.countLock.derive).raiseHigh

/-- R33: a pending aligned set is applied at an accepted pulse. -/
def Clock.applyAligned (a : AlignedSet) (k : Clock) : Clock :=
  (k.restartMs.countLock).label a.seconds 0 1 a.forcedBack

/-- A pulse within the millisecond in progress: counting restarts from it. -/
def Clock.markPulse (cycles : Nat) (k : Clock) : Clock := { k with pulse := some 0, elapsed := k.elapsed + cycles }

/-- R24: an accepted pulse that ends an interval of `interval` cycles. -/
def Clock.acceptPulse (interval cycles : Nat) (k : Clock) : Clock :=
  let k := { (k.markPulse cycles) with trim := trimUpdate k.trim interval, absence := 0 }
  match k.aligned with
  | some a => k.applyAligned a
  | none => if k.labelled then k.correctPhase else k

/-- R24: a pulse that arrives `cycles` after the last ms tick or the last pulse. -/
def Clock.pulseArrives (cycles : Nat) (k : Clock) : Clock :=
  match k.pulse with
  | none => k.markPulse cycles
  | some count =>
    let interval := count + cycles
    if Config.pulseMin ≤ interval ∧ interval ≤ Config.pulseMax then k.acceptPulse interval cycles
    else (k.markPulse cycles).unlock

end Sys2Proof.Machine
end

