-- ==== Sys2Proof/Machine/TcuOps.lean ====
section
/-!
DEFINITION. The Token Check Unit (spec/01): the key slots and the deny list, the verification of R14 and R15, the decision
of R16 to R20 with the Grant Engine's acceptance (R65 to R68), the taking of a presentation (R12) and the held cancel
(R21).
-/

namespace Sys2Proof.Machine

/-! ## The deny list (R6 to R8) -/

/-- R6: an id takes its place in ascending order. -/
def denyInsert (id : Word) : List Word → List Word
  | [] => [id]
  | x :: rest => if id < x then id :: x :: rest else x :: denyInsert id rest

/-- R7: the ids of an accepted request are taken in turn: the list, how many were inserted, and whether adding
stopped. -/
def denyAdd : List Word → List Word → Nat → List Word × Nat × Bool
  | [], deny, added => (deny, added, false)
  | id :: rest, deny, added =>
    if id ∈ deny then denyAdd rest deny added
    else if deny.length < Config.denyMax then denyAdd rest (denyInsert id deny) (added + 1)
    else (deny, added, true)

/-! ## Verification (R14, R15) -/

/-- R14: stage 1. -/
def malformed (refInUse : Bool) (t : Token) : Bool :=
  t.format ≠ 1#8 || !accountInRange t.account || 48 < t.dock.toNat || 2 < t.bikeClass.toNat || t.flags &&& 0xFE#8 ≠ 0#8
    || t.notAfter < t.notBefore || t.notBefore.toNat + 600 < t.notAfter.toNat || refInUse

/-- R15 stage 2: the present key slot with an epoch. -/
def Tcu.keyFor (t : Tcu) (epoch : Byte) : Option KeySlot :=
  (t.keyA.filter (fun k => k.epoch = epoch)).or (t.keyB.filter (fun k => k.epoch = epoch))

/-- R15 stage 4: the station group of the token is this station's or the group of every station. -/
def groupOk (stationGroup : Nat) (t : Token) : Bool := t.group.toNat = stationGroup || t.group = 0xFFFF#16

/-- R14, R15: the reason of the first of stages 1 to 4 that fails. -/
def Tcu.verify (tcu : Tcu) (stationGroup : Nat) (check : Check) : Option Reason :=
  let t := check.pres.token
  if malformed check.refInUse t then some .malformed
  else
    match tcu.keyFor t.epoch with
    | none => some .keyUnknown
    | some slot =>
      if tokenTag slot.key t ≠ t.tag then some .tagBad
      else if !groupOk stationGroup t then some .wrongStation
      else none

/-! ## Decision (R16 to R20) -/

/-- R1: the OFFLINE_OK flag of a token. -/
def offlineOk (t : Token) : Bool := t.flags.getLsbD 0

/-- R16 to R18: the reason of the first of stages 5 to 10 that fails. -/
def earlyStages (c : Ctx) (k : Clock) (tcu : Tcu) (t : Token) : Option Reason :=
  if !c.clockUsable then some .clock
  else if t.notBefore.toNat < tcu.mark then some .restarted
  else if k.early t.notBefore.toNat then some .early
  else if k.expired t.notAfter.toNat then some .expired
  else if c.offline && !offlineOk t then some .offline
  else if tcu.deny.contains t.account then some .denied
  else none

/-- R19: the spent-list entry with a serial. -/
def Pillar.spentEntry (serial : Word) (p : Pillar) : Option SpentEntry := p.spent.find? (fun e => e.serial = serial)

/-- R20 stage 12: whether an active RIDER grant carries an account. -/
def Pillar.accountBusy (account : Word) (p : Pillar) : Bool :=
  p.grants.toList.any (fun g => g.any (fun g => g.rider.any (fun r => r.account = account)))

/-- R68: the grant is created for a presentation on the dock chosen. -/
def Pillar.grantTo (i : Fin 8) (d : DockNo) (pres : Presentation) (p : Pillar) : Pillar :=
  let t := pres.token
  let id := p.newId
  let p := p.createGrant i d
    (some { ref := pres.ref, account := t.account, serial := t.serial, bikeClass := t.bikeClass })
  let p := { p with spent := insertSpent { serial := t.serial, notAfter := t.notAfter.toNat, grant := some id } p.spent }
  p.send (.verdict pres.ref true d.number id .none false)

/-- R65 to R68: the Grant Engine's acceptance of a presentation that has passed stage 13. -/
def Pillar.accept (k : Clock) (pres : Presentation) (p : Pillar) : Pillar :=
  let p := p.prune k
  match p.freeSlot with
  | none => p.send (refusal pres.ref .busy)
  | some i =>
    if p.roomTest then
      match p.choose pres.token with
      | .ok d => p.grantTo i d pres
      | .error reason => p.send (refusal pres.ref reason)
    else p.send (refusal pres.ref .busy)

/-- R16 to R20: the decision step. -/
def Pillar.decide (c : Ctx) (k : Clock) (tcu : Tcu) (pres : Presentation) (p : Pillar) : Pillar :=
  let t := pres.token
  match earlyStages c k tcu t with
  | some reason => p.send (refusal pres.ref reason)
  | none =>
    match p.spentEntry t.serial with
    | some entry =>
      match entry.grant.bind p.findGrant with
      | some (_, g) => p.send (.verdict pres.ref true g.dock.number g.id .none true)
      | none => p.send (refusal pres.ref .replayed)
    | none =>
      if p.accountBusy t.account then p.send (refusal pres.ref .accountBusy)
      else if p.suspended || c.inService then p.send (refusal pres.ref .suspended)
      else p.accept k pres

/-- R14 to R21: the end of a verification, with the decision when no verification stage failed; the verdict is
queued. -/
def Pillar.verified (c : Ctx) (k : Clock) (tcu : Tcu) (check : Check) (p : Pillar) : Pillar :=
  match tcu.verify c.w.stationGroup check with
  | some reason => p.send (refusal check.pres.ref reason)
  | none => p.decide c k tcu check.pres

/-! ## The course of a check (R12, R21) -/

/-- R12: whether the TCU may take a presentation. -/
def State.canTake (s : State) : Bool :=
  s.tcu.check.isNone && s.tcu.heldCancel.isNone && s.tcu.held.isNone && !s.rider.inbox.isEmpty

/-- R12, R14: the TCU takes the oldest presentation and starts its check. -/
def State.take (s : State) : State :=
  match s.rider.inbox with
  | [] => s
  | pres :: rest =>
    { s with
      rider := { s.rider with inbox := rest }
      tcu :=
        { s.tcu with
          check := some { pres := pres, refInUse := (s.pillar.grantWithRef pres.ref).isSome, ticks := 0 } } }

/-- R15, R21: the verification ends, and with it the check. A CANCEL held for a presentation refused because its ref is
in use is ignored with that verdict (entry 26): the active grant with the ref is another presentation's. -/
def State.endCheck (s : State) : State :=
  match s.tcu.check with
  | none => s
  | some check =>
    let s := s.event (fun c => Pillar.verified c s.clock s.tcu check)
    { s with tcu := { s.tcu with check := none, heldCancel := if check.refInUse then none else s.tcu.heldCancel } }

/-- R21: whether a held CANCEL is to be applied. -/
def State.heldCancelDue (s : State) : Bool := s.tcu.check.isNone && s.tcu.heldCancel.isSome

/-- R21: the held CANCEL is applied as a CANCEL for its ref. -/
def State.applyHeldCancel (s : State) : State :=
  match s.tcu.heldCancel with
  | none => s
  | some ref =>
    { s with tcu := { s.tcu with heldCancel := none } }.event (fun c => Pillar.cancelRef c ref)

end Sys2Proof.Machine
end

