-- ==== Sys2Proof/Machine/RiderOps.lean ====
section
/-!
DEFINITION. The Rider Link Port (spec/09): the receiver (R159 to R162), and what an accepted PRESENT, CANCEL or QUERY does
(R163 to R165).
-/

namespace Sys2Proof.Machine

/-! ## Accepted frames (R163 to R165) -/

/-- R163: a presentation joins the inbox, or is refused BUSY when the inbox is full. -/
def State.acceptPresent (ref : Byte) (token : Token) (s : State) : State :=
  if s.rider.inbox.length < Config.inboxMax then
    { s with rider := { s.rider with inbox := s.rider.inbox ++ [{ ref := ref, token := token }] } }
  else s.event (fun _ => Pillar.send (refusal ref .busy))

/-- R164: a CANCEL removes the oldest inbox entry with its ref, is held by the TCU, or goes to the Grant Engine. -/
def State.acceptCancel (ref : Byte) (s : State) : State :=
  if s.rider.inbox.any (fun e => e.ref = ref) then
    { s with rider := { s.rider with inbox := s.rider.inbox.eraseP (fun e => e.ref = ref) } }.event
      (fun _ => Pillar.send (refusal ref .cancelled))
  else if s.tcu.check.any (fun k => k.pres.ref = ref) then
    { s with tcu := { s.tcu with heldCancel := some ref } }
  else s.event (fun c => Pillar.cancelRef c ref)

/-- R165: an AVAILABILITY entry joins the output queue unless one already waits. -/
def Pillar.query (p : Pillar) : Pillar := if p.out.contains .availability then p else p.send .availability

def State.acceptQuery (s : State) : State := s.event (fun _ => Pillar.query)

/-- R162: an accepted frame is handed on. -/
def State.acceptFrame (r : RiderRequest) (s : State) : State :=
  match r with
  | .present ref token => s.acceptPresent ref token
  | .cancel ref => s.acceptCancel ref
  | .query => s.acceptQuery

/-! ## The receiver (R159 to R161) -/

/-- The receiver in HUNT with no frame in assembly. -/
def RiderRx.hunt (r : RiderRx) : RiderRx := { r with state := .hunt, len := 0, sum := 0#8, bytes := [], gap := 0 }

/-- R159, R160: the receiver takes a byte; the request is that of a frame the byte completes and R162 accepts. -/
def RiderRx.byte (b : Byte) (stopBit : Bool) (r : RiderRx) : RiderRx × Option RiderRequest :=
  match r.state with
  | .hunt => if stopBit ∧ b = 0xA5#8 then ({ r.hunt with state := .length }, none) else (r, none)
  | .length =>
    if !stopBit then (r.hunt, none)
    else if b = 0xA5#8 then ({ r with gap := 0 }, none)
    else if 1 ≤ b.toNat ∧ b.toNat ≤ 40 then ({ r with state := .body, len := b.toNat, sum := b, bytes := [], gap := 0 }, none)
    else (r.hunt, none)
  | .body =>
    if !stopBit then (r.hunt, none)
    else
      let bytes := r.bytes ++ [b]
      ({ r with state := if r.len ≤ bytes.length then .check else .body, sum := r.sum + b, bytes := bytes, gap := 0 }, none)
  | .check =>
    if !stopBit then (r.hunt, none)
    else if r.sum + b = 0#8 then (r.hunt, riderRequestOf r.bytes)
    else (r.hunt, none)

/-- R160, R162: a byte is received, and a frame it completes is handed on in the same step. -/
def State.receive (b : Byte) (stopBit : Bool) (s : State) : State :=
  let result := s.rider.byte b stopBit
  let s := { s with rider := result.1 }
  match result.2 with
  | some r => s.acceptFrame r
  | none => s

/-- R161: whether the gap count has reached 21 in the middle of a frame. -/
def RiderRx.gapDue (r : RiderRx) : Bool := r.state ≠ .hunt && Config.gapMax ≤ r.gap

/-- R161: the gap count at an ms tick. -/
def RiderRx.tick (r : RiderRx) : RiderRx := if r.state = .hunt then { r with gap := 0 } else { r with gap := r.gap + 1 }

end Sys2Proof.Machine
end

