-- ==== Sys2Proof/Machine/Readout.lean ====
section
/-!
DEFINITION. The response bodies of STATUS (R174) and READ_DOCK (R175), with the widths and code values of
spec/13_formats.md. Where that file gives neither a width nor a code, entry 10 of the assumption log says what stands
here.
-/

namespace Sys2Proof.Machine

/-! ## Codes -/

def serviceCode (inService : Bool) : Byte := if inService then 0#8 else 1#8

def onlineCode (online : Bool) : Byte := if online then 0#8 else 1#8

def BikeClass.code : BikeClass → Byte
  | .standard => 0#8
  | .assisted => 1#8

def DockState.code : DockState → Byte
  | .unfitted => 0#8
  | .silent => 1#8
  | .empty => 2#8
  | .returning => 3#8
  | .docked => 4#8
  | .releasing => 5#8
  | .open => 6#8
  | .relocking => 7#8
  | .fault => 8#8

def FaultCause.code (f : FaultCause) : Byte := f.record.code

def Phase.code : Phase → Byte
  | .queued => 0#8
  | .sending => 1#8
  | .confirming => 2#8
  | .open => 3#8
  | .relock => 4#8

def ChanState.code : ChanState → Byte
  | .idle => 0#8
  | .offerFirst => 1#8
  | .gap => 2#8
  | .offer => 3#8
  | .ending => 4#8
  | .closing => 5#8

def TrainResult.code : TrainResult → Byte
  | .none => 0#8
  | .passed => 1#8
  | .failed => 2#8

def TrainStep.code : TrainStep → Byte
  | .on => 0#8
  | .sweep => 1#8
  | .off => 2#8

/-- A level: 0 NORMAL, 1 LOWERED. -/
def levelCode (lowered : Bool) : Byte := flagByte lowered

/-! ## STATUS (R174) -/

/-- R3: a key slot shows its present flag and its epoch, never a key byte. -/
def keySlotStatus (k : Option KeySlot) : List Byte := optBytes 1 (k.map (fun k => [k.epoch]))

/-- R37: the values of the Station Clock, with the restart mark. -/
def clockStatus (k : Clock) (mark : Nat) : List Byte :=
  [k.state.code] ++ beBytes 4 k.sec ++ beBytes 2 k.ms ++ beBytes 2 k.unc ++ beBytes 2 k.labelUnc ++ [numByte k.k]
    ++ beBytes 4 k.trim ++ beBytes 6 k.high ++ beBytes 4 mark
    ++ optBytes 4 (k.aligned.map (fun a => beBytes 4 a.seconds))

/-- R62: the id, origin, dock and phase of an active grant. -/
def Grant.status (g : Grant) : List Byte :=
  [numByte g.id, if g.rider.isSome then 0#8 else 1#8, numByte g.dock.number, g.phase.code]

/-- R152: the training state of a rail, in 5 bytes. -/
def trainingStatus : Option Training → List Byte
  | none => [0#8, 0#8, 0#8, 0#8, 0#8]
  | some t =>
    [1#8, numByte (headAddr t.dock), t.step.code, if t.step = .sweep then numByte (t.scans / 2) else 0#8,
      if t.step = .sweep then 0#8 else numByte t.attempt]

/-- R174: the values of a Rail Controller. -/
def Rail.status (r : Rail) : List Byte :=
  [r.chan.state.code, numByte r.quiet, numByte r.safety.length, numByte r.station.length, numByte r.rider.length,
    numByte r.upkeep.length, levelCode r.stationLow, levelCode r.riderLow] ++ trainingStatus r.training

/-- R174: the values of the Grant Engine, the Dock Manager and the Rail Controllers. -/
def Pillar.status (p : Pillar) : List Byte :=
  let grants := p.grants.toList.filterMap id
  [flagByte p.suspended, numByte grants.length] ++ grants.flatMap Grant.status
    ++ p.docks.toList.map (fun d => d.state.code)
    ++ numByte p.order.length :: p.order.map (fun d => numByte d.number)
    ++ [numByte p.owedCount] ++ p.railA.status ++ p.railB.status

/-- R174: the body of a STATUS response. -/
def State.statusBody (s : State) : List Byte :=
  [causeCode s.store.cause, serviceCode s.store.inService, flagByte s.store.busy, flagByte s.store.fromFactory,
      onlineCode s.link.online]
    ++ beBytes 4 s.link.silence ++ clockStatus s.clock s.tcu.mark ++ keySlotStatus s.tcu.keyA ++ keySlotStatus s.tcu.keyB
    ++ beBytes 2 s.tcu.deny.length ++ beBytes 2 s.pillar.spent.length ++ [flagByte s.tcu.check.isSome]
    ++ s.pillar.status
    ++ [numByte s.rider.inbox.length, numByte s.pillar.out.length, numByte s.pillar.records.length,
      flagByte s.pillar.overflow]

/-! ## READ_DOCK (R175) -/

def optTagBytes (tag : Option Tag) : List Byte := optBytes 8 (tag.map (fun t => beBytes 8 t.toNat))

def Bike.bytes (b : Bike) : List Byte := optTagBytes b.tag ++ [b.cls.code, b.condition.code]

def Hold.bytes : Hold → List Byte
  | .reserve id expiry => [1#8, id] ++ beBytes 4 expiry
  | .service => [2#8, 0#8, 0#8, 0#8, 0#8, 0#8]

def LampSource.bytes : LampSource → List Byte
  | .auto => [0#8, 0#8]
  | .direct pattern => [1#8, pattern.code]

def OwedReturn.bytes (d : DockNo) (o : OwedReturn) : List Byte :=
  numByte d.number :: optTagBytes o.tag ++ [flagByte o.notSensed + 2#8 * flagByte o.intoService]

def Relock.bytes (r : Relock) : List Byte := numByte r.attempt :: optBytes 2 (r.deadline.map (beBytes 2))

/-- R40, R175: all fields of a dock record, in the order of the table of R40. -/
def Dock.bytes (d : DockNo) (k : Dock) : List Byte :=
  [k.state.code] ++ optBytes 1 (k.cause.map (fun f => [f.code])) ++ optBytes 11 (k.bike.map Bike.bytes)
    ++ optBytes 6 (k.hold.map Hold.bytes) ++ optBytes 1 (k.grant.map (fun g => [numByte g])) ++ k.lamp.bytes
    ++ optBytes 11 (k.owed.map (OwedReturn.bytes d)) ++ [flagByte k.recovery]
    ++ optBytes 2 (k.watch.map (beBytes 2)) ++ [flagByte k.poor] ++ optBytes 4 (k.relock.map Relock.bytes)
    ++ optBytes 1 (k.ident.map (fun i => [numByte i.attempt]))

def optCode (c : Option Code) : List Byte := optBytes 1 (c.map (fun c => [c.code]))

/-- R132: the per-head state as READ_DOCK shows it. -/
def Head.bytes (h : Head) : List Byte :=
  optCode h.confirmed ++ optCode h.candidate ++ [numByte h.missed, numByte h.delay, h.lastTraining.code]

/-- R108: the present flag, whose values are listed present, absent. -/
def presentCode (present : Bool) : Byte := if present then 0#8 else 1#8

/-- R119: the filter record as READ_DOCK shows it. The flag of a record that is not initialised reads absent. -/
def Filter.bytes (f : Filter) : List Byte :=
  [flagByte f.initialised] ++ beBytes 2 f.base ++ [numByte f.bucket, numByte f.lowRun, numByte f.onRun, numByte f.offRun,
    presentCode (f.initialised && f.present)] ++ optBytes 2 (f.lastRaw.map (beBytes 2))

/-- R175: the body of a READ_DOCK response. -/
def Pillar.dockBody (d : DockNo) (p : Pillar) : List Byte :=
  (p.dock d).bytes d ++ [(p.dock d).pattern.code] ++ (p.head d).bytes ++ (p.filter d).bytes

/-! ## READ_RECORDS (R178) -/

/-- R178: the body of a READ_RECORDS response. -/
def recordsBody (records : List Record) (overflow : Bool) (occupancy : Nat) : List Byte :=
  [numByte records.length, flagByte overflow, numByte occupancy] ++ records.flatMap Record.bytes

end Sys2Proof.Machine
end

