-- ==== Sys2Proof/Machine/StationOps.lean ====
section
/-!
DEFINITION. The requests of the station link, each as its owner applies and answers it (the command catalogue of
spec/10), and the Station Link Port around them: the taking of a request (R169 to R171), the held request (R13), write
selections (R169, R187) and read selections (R170).
-/

namespace Sys2Proof.Machine

/-! ## Responses -/

/-- OK with no body. -/
def Response.ok : Response := { code := .ok, body := [] }

/-- OK with a body. -/
def Response.okWith (body : List Byte) : Response := { code := .ok, body := body }

/-- A response with no body, of any other code. -/
def Response.refuse (code : RespCode) : Response := { code := code, body := [] }

/-- A request with a dock operand: a dock outside 1 to 48 is refused BAD_VALUE. -/
def State.onDock (dock : Byte) (f : DockNo → State → State × Response) (s : State) : State × Response :=
  match dockOperand dock with
  | some d => f d s
  | none => (s, .refuse .badValue)

/-! ## Reading (R174, R175, R178, R98) -/

/-- R98: the owed return of one dock enters the Record Queue while there is room. -/
def Pillar.enterOwed (c : Ctx) (p : Pillar) (d : DockNo) : Pillar :=
  match (p.dock d).owed with
  | some owed =>
    if p.room then
      (p.enter c (.ret d owed.tag owed.notSensed owed.intoService)).modDock d (fun k => { k with owed := none })
    else p
  | none => p

/-- R178: up to `count` records leave the Record Queue, owed returns enter, and an empty queue clears OVERFLOW. -/
def Pillar.readRecords (c : Ctx) (count : Nat) (p : Pillar) : Pillar :=
  let taken := p.records.take count
  let p := { p with records := p.records.drop count }
  let p := if taken.isEmpty then p else allDocks.foldl (Pillar.enterOwed c) p
  { p with overflow := p.overflow && !p.records.isEmpty, attention := !p.records.isEmpty }

def State.applyReadRecords (count : Byte) (s : State) : State × Response :=
  if 1 ≤ count.toNat ∧ count.toNat ≤ 8 then
    let p := s.pillar.readRecords s.ctx count.toNat
    ({ s with pillar := p },
      .okWith (recordsBody (s.pillar.records.take count.toNat) s.pillar.overflow p.records.length))
  else (s, .refuse .badValue)

def State.applyReadDock (dock : Byte) (s : State) : State × Response :=
  s.onDock dock (fun d s => (s, .okWith (s.pillar.dockBody d)))

/-! ## The Station Clock (R32, R33) -/

/-- R32, R33: a SET_TIME is applied. -/
def State.applySetTime (seconds : Word) (mode force : Byte) (s : State) : State × Response :=
  if (mode ≠ 1#8 ∧ mode ≠ 2#8) ∨ (force ≠ 0#8 ∧ force ≠ 1#8) then (s, .refuse .badValue)
  else
    let back := s.clock.backward seconds.toNat
    if back ∧ force = 0#8 then (s, .refuse .timeBackward)
    else if mode = 1#8 then
      (s.setClock (s.clock.setImmediate s.store.work.setUncertainty seconds.toNat back), .ok)
    else
      ({ s with
          clock := { s.clock with aligned := some { seconds := seconds.toNat, forcedBack := back, expiry := 0 } } },
        .ok)

/-! ## The Token Check Unit (R4 to R8) -/

def Tcu.slot (t : Tcu) : Slot → Option KeySlot
  | .a => t.keyA
  | .b => t.keyB

def Tcu.setSlot (t : Tcu) (slot : Slot) (k : Option KeySlot) : Tcu :=
  match slot with
  | .a => { t with keyA := k }
  | .b => { t with keyB := k }

def Slot.other : Slot → Slot
  | .a => .b
  | .b => .a

/-- R4: KEY_LOAD. -/
def State.applyKeyLoad (slot epoch : Byte) (key : BitVec 128) (s : State) : State × Response :=
  match slotOperand slot with
  | none => (s, .refuse .badValue)
  | some slot =>
    if (s.tcu.slot slot.other).any (fun k => k.epoch = epoch) then (s, .refuse .badValue)
    else if s.store.busy then (s, .refuse .busy)
    else ({ s with tcu := s.tcu.setSlot slot (some { epoch := epoch, key := key }) }, .ok)

/-- R5: KEY_DROP. -/
def State.applyKeyDrop (slot : Byte) (s : State) : State × Response :=
  match slotOperand slot with
  | none => (s, .refuse .badValue)
  | some slot =>
    if (s.tcu.slot slot).isNone then (s, .refuse .notFound)
    else if s.store.busy then (s, .refuse .busy)
    else ({ s with tcu := s.tcu.setSlot slot none }, .ok)

/-- R7: DENY_ADD. The count of its response is carried in one byte (DESIGN CHOICE, entry 10). -/
def State.applyDenyAdd (count : Byte) (ids : List Word) (s : State) : State × Response :=
  if count.toNat < 1 ∨ 16 < count.toNat ∨ ids.any (fun id => !accountInRange id) then (s, .refuse .badValue)
  else
    let result := denyAdd ids s.tcu.deny 0
    ({ s with tcu := { s.tcu with deny := result.1 } },
      { code := if result.2.2 then .full else .ok, body := [numByte result.2.1] })

/-- R8: DENY_REMOVE. -/
def State.applyDenyRemove (account : Word) (s : State) : State × Response :=
  if s.tcu.deny.contains account then
    ({ s with tcu := { s.tcu with deny := s.tcu.deny.filter (fun id => id != account) } }, .ok)
  else (s, .refuse .notFound)

/-- R8: DENY_CLEAR. -/
def State.applyDenyClear (s : State) : State × Response := ({ s with tcu := { s.tcu with deny := [] } }, .ok)

/-! ## The Dock Manager (R50, R53, R54, R56, R58) -/

/-- R53 test 2: whether a RESERVE hold may be placed on a dock now. -/
def reserveAllowed (k : Clock) (dock : Dock) (expiry : Nat) : Bool :=
  dock.state = .docked && dock.hold.isNone && k.labelled && k.sec < expiry

/-- R53: HOLD_SET RESERVE. -/
def State.applyHoldReserve (dock id : Byte) (expiry : Word) (s : State) : State × Response :=
  s.onDock dock (fun d s =>
    if id = 0#8 then (s, .refuse .badValue)
    else if !reserveAllowed s.clock (s.pillar.dock d) expiry.toNat then (s, .refuse .badState)
    else if (s.pillar.reservedDock id).isSome then (s, .refuse .badValue)
    else
      (s.event (fun _ p => p.modDock d (fun k => { k with hold := some (.reserve id expiry.toNat) })), .ok))

/-- R54: HOLD_SET SERVICE. -/
def State.applyHoldService (dock : Byte) (s : State) : State × Response :=
  s.onDock dock (fun d s =>
    if (s.pillar.dock d).state = .unfitted then (s, .refuse .badState)
    else (s.event (fun _ p => p.modDock d (fun k => { k with hold := some .service })), .ok))

/-- R53, R54: HOLD_SET by its kind; another kind is refused BAD_VALUE. -/
def State.applyHoldSet (kind dock id : Byte) (expiry : Word) (s : State) : State × Response :=
  if kind = 1#8 then s.applyHoldReserve dock id expiry
  else if kind = 2#8 then s.applyHoldService dock
  else (s, .refuse .badValue)

/-- R54: HOLD_CLEAR. -/
def State.applyHoldClear (dock : Byte) (s : State) : State × Response :=
  s.onDock dock (fun d s =>
    if (s.pillar.dock d).hold.isNone then (s, .refuse .notFound)
    else (s.event (fun _ p => p.modDock d (fun k => { k with hold := none })), .ok))

/-- R56: BIKE_CONDITION. -/
def State.applyBikeCondition (dock condition : Byte) (s : State) : State × Response :=
  s.onDock dock (fun d s =>
    match conditionOperand condition, (s.pillar.dock d).bike with
    | none, _ => (s, .refuse .badValue)
    | some _, none => (s, .refuse .notFound)
    | some condition, some bike =>
      ({ s with pillar := s.pillar.modDock d (fun k => { k with bike := some { bike with condition := condition } }) },
        .ok))

/-- R58: the lamp source of a dock is set. -/
def State.setLamp (source : LampSource) (d : DockNo) (s : State) : State × Response :=
  if (s.pillar.dock d).state = .unfitted then (s, .refuse .badState)
  else (s.event (fun _ p => p.modDock d (fun k => { k with lamp := source })), .ok)

/-- R58: LAMP_DIRECT. -/
def State.applyLampDirect (dock pattern : Byte) (s : State) : State × Response :=
  s.onDock dock (fun d s =>
    match patternOperand pattern with
    | none => (s, .refuse .badValue)
    | some pattern => s.setLamp (.direct pattern) d)

/-- R58: LAMP_AUTO. -/
def State.applyLampAuto (dock : Byte) (s : State) : State × Response := s.onDock dock (State.setLamp .auto)

/-- R50: a dock in FAULT is re-derived from its head's confirmed code. A relock without a grant in progress serves a
re-derivation to RELOCKING, and ends at once in every other case. The filter record becomes not initialised (R110) before
recovery reads its flag, so that a dock re-derived to EMPTY does not start its seat watch in this step (DESIGN CHOICE,
entry 34). -/
def Pillar.clearFault (c : Ctx) (d : DockNo) (p : Pillar) : Pillar :=
  let p := if (p.head d).confirmed = some .open then p else p.endRelock d
  let p := (p.enterState d .silent).uninitFilter d
  match (p.head d).confirmed with
  | some code => p.recover c d code
  | none => p

/-- R50: CLEAR_FAULT. -/
def State.applyClearFault (dock : Byte) (s : State) : State × Response :=
  s.onDock dock (fun d s =>
    if (s.pillar.dock d).state ≠ .fault then (s, .refuse .badState)
    else (s.event (fun c p => p.clearFault c d), .ok))

/-! ## The Grant Engine (R83, R85, R86) -/

/-- R85: STAFF_RELEASE. The grant id of its response is carried in one byte (DESIGN CHOICE, entry 10). -/
def State.applyStaffRelease (dock : Byte) (s : State) : State × Response :=
  s.onDock dock (fun d s =>
    if (s.pillar.dock d).state ≠ .docked then (s, .refuse .badState)
    else
      match s.pillar.freeSlot with
      | none => (s, .refuse .busy)
      | some i =>
        if s.pillar.roomForGrant then
          (s.event (fun _ p => p.createGrant i d none), .okWith [numByte s.pillar.newId])
        else (s, .refuse .busy))

/-- R83: ABORT_GRANT. -/
def State.applyAbortGrant (grant : Byte) (s : State) : State × Response :=
  if grant = 0#8 then (s, .refuse .badValue)
  else
    match s.pillar.findGrant grant.toNat with
    | none => (s, .refuse .notFound)
    | some (i, g) =>
      if g.phase = .relock then (s, .refuse .badState)
      else (s.event (fun c p => p.abortActive c i g), .ok)

/-- R86: SUSPEND and RESUME. -/
def State.applySuspend (flag : Bool) (s : State) : State × Response :=
  ({ s with pillar := { s.pillar with suspended := flag } }, .ok)

/-! ## The Rail Controllers (R152) -/

/-- R152: RAIL_TRAIN. -/
def State.applyRailTrain (rail : Byte) (s : State) : State × Response :=
  match railOperand rail with
  | none => (s, .refuse .badValue)
  | some r =>
    if !s.store.inService ∨ (s.pillar.rail r).training.isSome then (s, .refuse .badState)
    else ({ s with pillar := s.pillar.trainRail r }, .ok)

/-! ## The Settings Store (R181 to R183, R185, R186) -/

/-- The SAMPLE_DELAY of a dock is the delay of its head. A dock operand outside 1 to 48 is read for SAMPLE_DELAY
alone, where it is refused. -/
def State.delayOf (dock : Byte) (s : State) : Nat :=
  match dockOperand dock with
  | some d => (s.pillar.head d).delay
  | none => 0

/-- R181 test 1: the setting of a request, none when it is refused BAD_VALUE. -/
def settingOf (setting dock : Byte) : Option SettingName :=
  match settingOperand setting with
  | some name => if name = .sampleDelay ∧ (dockOperand dock).isNone then none else some name
  | none => none

/-- The working value of a setting as a response carries it. -/
def State.settingBody (name : SettingName) (dock : Byte) (s : State) : List Byte :=
  beBytes 6 (s.store.work.read (s.delayOf dock) name)

/-- R117: whether a write acts on the filter records at once. -/
def SettingName.adjustsFilters : SettingName → Bool
  | .bucket | .lowResetScans | .debounce => true
  | _ => false

/-- R181: the working value of a setting becomes a value within its range. -/
def State.writeSetting (name : SettingName) (dock : Byte) (v : Nat) (s : State) : State :=
  let work := s.store.work.write name v
  let pillar :=
    match name, dockOperand dock with
    | .sampleDelay, some d => s.pillar.modHead d (fun h => { h with delay := v })
    | _, _ => if name.adjustsFilters then s.pillar.adjustFilters work else s.pillar
  { s with store := { s.store with work := work }, pillar := pillar }

/-- R181: SETTING_WRITE. -/
def State.applySettingWrite (setting dock : Byte) (value : BitVec 48) (s : State) : State × Response :=
  match settingOf setting dock with
  | none => (s, .refuse .badValue)
  | some name =>
    if s.store.busy then (s, .refuse .busy)
    else if name.inServiceOnly ∧ !s.store.inService then (s, .refuse .badState)
    else
      let v := clamp name.range value.toNat
      if name.constrained ∧ !(s.store.work.write name v).thresholdsOk then (s, .refuse .badValue)
      else
        let t := s.writeSetting name dock v
        (t, { code := if v = value.toNat then .ok else .okClamped, body := t.settingBody name dock })

/-- R181: SETTING_READ. -/
def State.applySettingRead (setting dock : Byte) (s : State) : State × Response :=
  match settingOf setting dock with
  | none => (s, .refuse .badValue)
  | some name => (s, .okWith (s.settingBody name dock))

/-- R182: what a store captures, under its good check word. -/
def State.capture (s : State) : Image :=
  let image : Image :=
    { settings := s.store.work, delays := mapTable (fun h => h.delay) s.pillar.heads, keyA := s.tcu.keyA,
      keyB := s.tcu.keyB, trim := s.clock.trim, check := 0#32 }
  { image with check := image.computed }

/-- R182: STORE_SETTINGS. The image's check word becomes the inverse of the value computed over its contents (R189). -/
def State.applyStore (s : State) : State × Response :=
  if s.store.busy then (s, .refuse .busy)
  else
    ({ s with
        store :=
          { s.store with
            busy := true
            store := some { captured := s.capture, ticks := 0 }
            image := { s.store.image with check := ~~~ s.store.image.computed } } },
      .ok)

/-- R182: the store completes. -/
def State.completeStore (s : State) : State :=
  match s.store.store with
  | some run =>
    { s with store := { s.store with busy := false, store := none, fromFactory := false, image := run.captured } }
  | none => s

/-- R183: RESTORE_FACTORY. -/
def State.applyRestore (s : State) : State × Response :=
  if s.store.busy then (s, .refuse .busy)
  else
    let p := { s.pillar with heads := mapTable (fun (h : Head) => { h with delay := factoryDelay }) s.pillar.heads }
    ({ s with
        store := { s.store with work := .factory }
        tcu := { s.tcu with keyA := none, keyB := none }
        clock := { s.clock with trim := Config.trimNominal }
        pillar := p.adjustFilters .factory },
      .ok)

/-- R185: SERVICE_ENTER. -/
def State.applyServiceEnter (s : State) : State × Response :=
  if s.store.inService then (s, .ok)
  else if 0 < s.pillar.active then (s, .refuse .badState)
  else ({ s with store := { s.store with inService := true } }, .ok)

/-- The head of a dock whose fitting changes (R132). -/
def Head.refit (h : Head) : Head := { h with confirmed := none, candidate := none, missed := 0, stray := false }

/-- R59: a dock is newly unfitted. -/
def Pillar.unfitDock (d : DockNo) (p : Pillar) : Pillar :=
  let p := (p.setDock d (.fresh .unfitted)).drop d (fun _ => true)
  let p := { p with order := p.order.filter (fun e => e != d) }
  let p := (p.modHead d Head.refit).uninitFilter d
  p.modRail (railOf d) (fun x => { x with pair := x.pair.filter (fun pair => pair.dock != d) })

/-- R59: a dock is newly fitted: it goes to SILENT with no field present, and so with no place in the Dock Order
List (R42). -/
def Pillar.fitDock (d : DockNo) (p : Pillar) : Pillar :=
  let p := (p.setDock d (.fresh .silent)).modHead d Head.refit
  { p with order := p.order.filter (fun e => e != d) }

/-- R59: the new fitted set is applied to one dock. -/
def Pillar.refitDock (new : BitVec 48) (p : Pillar) (d : DockNo) : Pillar :=
  if p.isFitted d ∧ !new.getLsbD d.val then p.unfitDock d
  else if !p.isFitted d ∧ new.getLsbD d.val then p.fitDock d
  else p

/-- R59: the geometry is applied, and the new value becomes the fitted set in force. -/
def Pillar.applyGeometry (new : BitVec 48) (p : Pillar) : Pillar :=
  { allDocks.foldl (Pillar.refitDock new) p with fitted := new }

/-- R186 test 3: whether an active grant holds a dock that a fitted set leaves out. -/
def Pillar.grantOutside (new : BitVec 48) (p : Pillar) : Bool :=
  p.grants.toList.any (fun g => g.any (fun g => !new.getLsbD g.dock.val))

/-- R186: SERVICE_LEAVE. -/
def State.applyServiceLeave (s : State) : State × Response :=
  if !s.store.inService then (s, .refuse .badState)
  else if s.pillar.railA.training.isSome ∨ s.pillar.railB.training.isSome then (s, .refuse .badState)
  else if s.pillar.grantOutside s.store.work.fitted then (s, .refuse .badState)
  else
    ({ s with
        store := { s.store with inService := false }
        pillar := s.pillar.applyGeometry s.store.work.fitted },
      .ok)

/-! ## The catalogue -/

/-- A request is applied by its owner, which decides its response (R170, R171). -/
def applyRequest (r : Request) (s : State) : State × Response :=
  match r with
  | .status => (s, .okWith s.statusBody)
  | .readDock dock => s.applyReadDock dock
  | .readRecords count => s.applyReadRecords count
  | .setTime seconds mode force => s.applySetTime seconds mode force
  | .keyLoad slot epoch key => s.applyKeyLoad slot epoch key
  | .keyDrop slot => s.applyKeyDrop slot
  | .denyAdd count ids => s.applyDenyAdd count ids
  | .denyRemove account => s.applyDenyRemove account
  | .denyClear => s.applyDenyClear
  | .holdSet kind dock id expiry => s.applyHoldSet kind dock id expiry
  | .holdClear dock => s.applyHoldClear dock
  | .bikeCondition dock condition => s.applyBikeCondition dock condition
  | .lampDirect dock pattern => s.applyLampDirect dock pattern
  | .lampAuto dock => s.applyLampAuto dock
  | .clearFault dock => s.applyClearFault dock
  | .staffRelease dock => s.applyStaffRelease dock
  | .abortGrant grant => s.applyAbortGrant grant
  | .suspend => s.applySuspend true
  | .resume => s.applySuspend false
  | .railTrain rail => s.applyRailTrain rail
  | .settingWrite setting dock value => s.applySettingWrite setting dock value
  | .settingRead setting dock => s.applySettingRead setting dock
  | .storeSettings => s.applyStore
  | .restoreFactory => s.applyRestore
  | .serviceEnter => s.applyServiceEnter
  | .serviceLeave => s.applyServiceLeave

/-- R13: the requests that are held while a check is in flight. -/
def heldKind : Request → Bool
  | .keyLoad _ _ _ | .keyDrop _ | .denyAdd _ _ | .denyRemove _ | .denyClear | .restoreFactory | .setTime _ _ _ => true
  | .status | .readDock _ | .readRecords _ | .holdSet _ _ _ _ | .holdClear _ | .bikeCondition _ _ | .lampDirect _ _
  | .lampAuto _ | .clearFault _ | .staffRelease _ | .abortGrant _ | .suspend | .resume | .railTrain _
  | .settingWrite _ _ _ | .settingRead _ _ | .storeSettings | .serviceEnter | .serviceLeave => false

/-! ## The port (R169 to R173) -/

/-- R170: a response is placed in the response buffer, and READY rises. -/
def LinkPort.answer (r : Response) (l : LinkPort) : LinkPort :=
  { l with port := .answered, request := none, response := some r, ready := true }

/-- R170: a request is applied and answered in one step. -/
def State.serve (r : Request) (s : State) : State :=
  let result := applyRequest r s
  { result.1 with link := result.1.link.answer result.2 }

/-- R169, R172, R173: a valid request is taken: a response still waiting is discarded, the silence timer restarts, the
link is ONLINE, and the port is WORKING on the request. -/
def LinkPort.take (r : Request) (l : LinkPort) : LinkPort :=
  { l with
    port := .working, request := some r, response := none, ready := false, silence := 0, silenceDue := false
    online := true }

/-- R13, R169, R170: a valid request reaches its owner. One that comes while the port is WORKING is discarded; one that
the TCU must hold waits for the end of the check. -/
def State.takeRequest (r : Request) (s : State) : State :=
  if s.link.port = .working then s
  else
    let s := { s with link := s.link.take r }
    if heldKind r ∧ s.tcu.check.isSome then { s with tcu := { s.tcu with held := some r } }
    else s.serve r

/-- R13, R21: whether the held request is to be applied: the check has ended, and a held CANCEL has been applied. -/
def State.heldRequestDue (s : State) : Bool := s.tcu.check.isNone && s.tcu.heldCancel.isNone && s.tcu.held.isSome

/-- R13: the held request is applied and answered. -/
def State.applyHeldRequest (s : State) : State :=
  match s.tcu.held with
  | none => s
  | some r => { s with tcu := { s.tcu with held := none } }.serve r

/-- R170: a read selection that clocks out `n` bytes. -/
def State.readSelection (n : Nat) (s : State) : State :=
  match s.link.port, s.link.response with
  | .answered, some r =>
    let out := r.bytes.take n
    if r.bytes.length ≤ n then
      { s with link := { s.link with port := .idle, response := none, ready := false, clockedOut := out } }
    else { s with link := { s.link with clockedOut := out } }
  | _, _ => { s with link := { s.link with clockedOut := List.replicate n 0#8 } }

/-- R169, R187: a write selection with the bytes written after it was asserted, the selection byte first. -/
def State.writeSelection (bytes : List Byte) (s : State) : State :=
  match bytes with
  | [] => s
  | first :: rest =>
    if first = 0x3C#8 then
      if s.link.port = .working then s
      else
        match examineFrame rest with
        | .badFrame => { s with link := s.link.answer (.refuse .badFrame) }
        | .badRequest => { s with link := s.link.answer (.refuse .badRequest) }
        | .valid r => s.takeRequest r
    else if first = 0xC3#8 then s.readSelection rest.length
    else s

end Sys2Proof.Machine
end

