-- ==== Sys2Proof/Machine/Settle.lean ====
section
/-!
DEFINITION. The taking of the events that are due: one operation for each event row of the opcode table, which acts when
its event is due and changes nothing otherwise, and `State.settle`, which takes every event that is due in one fixed order
(NOTES.md, entry 2).
-/

namespace Sys2Proof.Machine

/-! ## Events of the Station Clock, the two link ports and the TCU -/

def State.tryAbsence (s : State) : State := if s.clock.absenceDue then s.setClock s.clock.unlock else s

def State.tryGrowth (s : State) : State := if s.clock.growthDue then { s with clock := s.clock.growthStep } else s

def State.tryAligned (s : State) : State :=
  if s.clock.alignedDue then s.setClock (s.clock.alignedExpire s.store.work.setUncertainty) else s

/-- R172: the link becomes OFFLINE. -/
def LinkPort.goOffline (l : LinkPort) : LinkPort := { l with online := false, silenceDue := false }

def State.trySilence (s : State) : State := if s.link.silenceDue then { s with link := s.link.goOffline } else s

def State.tryGap (s : State) : State := if s.rider.gapDue then { s with rider := s.rider.hunt } else s

def State.tryHeldCancel (s : State) : State := if s.heldCancelDue then s.applyHeldCancel else s

def State.tryHeldRequest (s : State) : State := if s.heldRequestDue then s.applyHeldRequest else s

/-! ## Events of the pillar -/

/-- An operation on the pillar in the context of the whole state. -/
def State.onPillar (f : Ctx → Pillar → Pillar) (s : State) : State := { s with pillar := f s.ctx s.pillar }

def Pillar.tryRise (c : Ctx) (d : DockNo) (p : Pillar) : Pillar := p.eventIf c (p.riseDue c d) (Pillar.rise d)

def Pillar.tryReset (c : Ctx) (d : DockNo) (p : Pillar) : Pillar := p.eventIf c (p.resetDue c d) (Pillar.lowReset d)

def Pillar.tryChanTimeout (c : Ctx) (r : RailId) (p : Pillar) : Pillar :=
  p.eventIf c (p.chanTimeoutDue r) (Pillar.chanTimeout r)

def Pillar.tryClosing (c : Ctx) (r : RailId) (p : Pillar) : Pillar :=
  p.eventIf c (p.closingTimeoutDue r) (Pillar.closingTimeout r)

def Pillar.tryAbort (c : Ctx) (r : RailId) (p : Pillar) : Pillar := p.eventIf c (p.abortDue r) (Pillar.chanAbort r)

def Pillar.tryOutcome (c : Ctx) (r : RailId) (p : Pillar) : Pillar :=
  p.eventIf c (p.outcomeDue r) (Pillar.channelOutcome c r)

def Pillar.tryRestore (c : Ctx) (r : RailId) (p : Pillar) : Pillar := p.eventIf c (p.restoreDue r) (Pillar.restore r)

def Pillar.tryHandOff (c : Ctx) (r : RailId) (p : Pillar) : Pillar := p.eventIf c (p.arbiterDue r) (Pillar.handOff r)

def Pillar.trySilent (c : Ctx) (d : DockNo) (p : Pillar) : Pillar := p.eventIf c (p.silentDue d) (Pillar.silentReport c d)

def Pillar.tryFirstCode (c : Ctx) (d : DockNo) (p : Pillar) : Pillar :=
  p.eventIf c (p.codeDue d true) (Pillar.codeEvent c d)

def Pillar.tryChange (c : Ctx) (d : DockNo) (p : Pillar) : Pillar :=
  p.eventIf c (p.codeDue d false) (Pillar.codeEvent c d)

def Pillar.tryPresent (c : Ctx) (d : DockNo) (p : Pillar) : Pillar :=
  p.eventIf c (p.presenceDue d true) (Pillar.presentEvent c d)

def Pillar.tryAbsent (c : Ctx) (d : DockNo) (p : Pillar) : Pillar :=
  p.eventIf c (p.presenceDue d false) (Pillar.absentEvent c d)

def Pillar.tryPoor (c : Ctx) (d : DockNo) (p : Pillar) : Pillar := p.eventIf c (p.poorDue d) (Pillar.poorDockExpired c d)

def Pillar.tryRelock (c : Ctx) (d : DockNo) (p : Pillar) : Pillar :=
  p.eventIf c (p.relockDue d) (Pillar.relockAttemptFailed c d)

def Pillar.tryConfirmExpiry (c : Ctx) (id : Nat) (p : Pillar) : Pillar :=
  p.eventIf c (p.grantDue id .confirming) (Pillar.confirmExpiry c id)

def Pillar.tryPullExpiry (c : Ctx) (id : Nat) (p : Pillar) : Pillar :=
  p.eventIf c (p.grantDue id .open) (Pillar.pullExpiry id)

def Pillar.tryRelockExpiry (c : Ctx) (id : Nat) (p : Pillar) : Pillar :=
  p.eventIf c (p.grantDue id .relock) (Pillar.relockExpiry c id)

def Pillar.tryTrainExpiry (c : Ctx) (r : RailId) (p : Pillar) : Pillar :=
  p.eventIf c (p.trainDue r) (Pillar.trainExpire r)

def Pillar.trySweepEnd (c : Ctx) (r : RailId) (p : Pillar) : Pillar := p.eventIf c (p.sweepDue r) (Pillar.endSweep r)

/-- R125: the next frame of a rail is scheduled when one has ended. -/
def Pillar.trySchedule (r : RailId) (p : Pillar) : Pillar := if (p.rail r).frameDue then p.schedule r else p

/-! ## Settling -/

/-- The end of the channel's frame: its timeouts, its abort, its outcome and the restore of the levels. -/
def Pillar.settleChannel (c : Ctx) (r : RailId) (p : Pillar) : Pillar :=
  ((((p.tryChanTimeout c r).tryClosing c r).tryAbort c r).tryOutcome c r).tryRestore c r

/-- The baselines of the filter records (R114, R115). -/
def Pillar.settleFilters (c : Ctx) (p : Pillar) : Pillar :=
  allDocks.foldl (fun p d => (p.tryRise c d).tryReset c d) p

/-- What the scan of a rail brought: a silent report, a confirmed code and a turn of the presence flag. -/
def Pillar.settleScan (c : Ctx) (r : RailId) (p : Pillar) : Pillar :=
  let p := match (p.rail r).silentDue with
    | some d => p.trySilent c d
    | none => p
  let p := match (p.rail r).codeDue with
    | some (d, first) => if first then p.tryFirstCode c d else p.tryChange c d
    | none => p
  let p := match (p.rail r).presenceDue with
    | some (d, present) => if present then p.tryPresent c d else p.tryAbsent c d
    | none => p
  (p.trySweepEnd c r).tryTrainExpiry c r

/-- The timers of the docks (R45, R105). -/
def Pillar.settleDocks (c : Ctx) (p : Pillar) : Pillar :=
  allDocks.foldl (fun p d => (p.tryPoor c d).tryRelock c d) p

/-- The deadline of the grant in one slot (R70, R77, R78). -/
def Pillar.settleGrant (c : Ctx) (p : Pillar) (i : Fin 8) : Pillar :=
  match p.grant i with
  | some g => ((p.tryConfirmExpiry c g.id).tryPullExpiry c g.id).tryRelockExpiry c g.id
  | none => p

/-- The deadlines of the grants, in slot order. -/
def Pillar.settleGrants (c : Ctx) (p : Pillar) : Pillar := allSlots.foldl (Pillar.settleGrant c) p

/-- The arbiter, and the scheduling of the next frame, which end a frame end. -/
def Pillar.settleFrame (c : Ctx) (r : RailId) (p : Pillar) : Pillar := (p.tryHandOff c r).trySchedule r

/-- Every event of the pillar that is due is taken, in this order, which is the model's where the spec has none (DESIGN
CHOICE, entry 2). -/
def Pillar.settle (c : Ctx) (p : Pillar) : Pillar :=
  let p := (p.settleChannel c .a).settleChannel c .b
  let p := ((p.settleFilters c).settleScan c .a).settleScan c .b
  let p := (p.settleDocks c).settleGrants c
  (p.settleFrame c .a).settleFrame c .b

/-- The events of the clock and the two link ports that are due. An absence (R27) and the expiry of an aligned set (R34) that
fall on one ms tick have no order in the spec; the absence is taken first, so that a LOCKED clock goes to HOLDOVER and then
to FREE (DESIGN CHOICE, entry 37). -/
def State.settleClock (s : State) : State := s.tryAbsence.tryGrowth.tryAligned.trySilence.tryGap

/-- R21, R13: what a check that has ended leaves to be applied, in this order. -/
def State.settleHeld (s : State) : State := s.tryHeldCancel.tryHeldRequest

/-- Every event that is due is taken. -/
def State.settle (s : State) : State := (s.settleClock.settleHeld).onPillar Pillar.settle

/-- A command from outside the part's own events: the events still due are taken first. -/
def external (f : State → State) (s : State) : Host.Outcome State Fault Refusal := .next (f s.settle)

/-! ## The ms tick (R23) -/

/-- A running timer at an ms tick. -/
def countDown : Option Nat → Option Nat
  | some (n + 1) => some n
  | t => t

def Dock.tick (k : Dock) : Dock :=
  { k with watch := countDown k.watch, relock := k.relock.map (fun r => { r with deadline := countDown r.deadline }) }

def Grant.tick (g : Grant) : Grant := { g with timer := countDown g.timer }

def Rail.tick (r : Rail) : Rail :=
  { r with training := r.training.map (fun t => { t with deadline := countDown t.deadline }) }

/-- R23: the timers of the pillar at an ms tick. -/
def Pillar.tickTimers (p : Pillar) : Pillar :=
  { p with
    docks := mapTable Dock.tick p.docks
    grants := mapTable (fun g => g.map Grant.tick) p.grants
    railA := p.railA.tick
    railB := p.railB.tick }

/-- R173: the silence count at an ms tick; `limit` is LINK_SILENCE × 1000. -/
def LinkPort.tick (limit : Nat) (l : LinkPort) : LinkPort :=
  { l with silence := min limit (l.silence + 1), silenceDue := l.online && limit ≤ l.silence + 1 }

/-- R12: the ms ticks of the check. -/
def Tcu.tick (t : Tcu) : Tcu := { t with check := t.check.map (fun k => { k with ticks := k.ticks + 1 }) }

/-- R182: the ms ticks of the store in progress. -/
def SettingsStore.tick (s : SettingsStore) : SettingsStore :=
  { s with store := s.store.map (fun r => { r with ticks := r.ticks + 1 }) }

/-- R12, R182: what must have come about before one more ms tick passes: a check ends within 2 ms ticks, a store
completes within 150, and the idle TCU takes a presentation that waits (NOTES.md, entry 15). Where one tick finds a check
and a store both at their bound, the check ends first, and a request held for it (R13) is applied while the store still
runs, so that KEY_LOAD, KEY_DROP and RESTORE_FACTORY are then refused BUSY (DESIGN CHOICE, entry 33). -/
def State.meetBounds (s : State) : State :=
  let s := if s.tcu.check.any (fun k => Config.verifyTicks ≤ k.ticks) then s.endCheck.settleHeld else s
  let s := if s.store.store.any (fun r => Config.storeTicks ≤ r.ticks) then s.completeStore else s
  if s.canTake then s.take else s

/-- R23: the counts and timers of every block at an ms tick, before the frame ends of the rails. Where the tick is a second
boundary, its pruning (R11), with U as it stands, and its lapses (R55) are taken here, and so before what the same tick
brings to the clock: the CLOCK record of ABSENCE_EXPIRY (R27, R29), the rise of U at GROWTH_STEP (R31) and
ALIGNED_SET_EXPIRY (R34). The spec gives no order of the two (DESIGN CHOICE, entry 36). -/
def State.tickTimers (s : State) : State :=
  let s :=
    { s with
      store := s.store.tick
      link := s.link.tick (s.store.work.linkSilence * Config.ticksPerSecond)
      tcu := s.tcu.tick
      rider := s.rider.tick
      pillar := s.pillar.tickTimers }
  s.setClock (s.clock.tick (s.store.work.holdoverGrowth * Config.ticksPerSecond))

/-- R140: whether a controller abort was asked for between two states of one step. -/
def State.askedSince (old new : State) (r : RailId) : Bool :=
  (new.pillar.rail r).chan.abort = .asked && (old.pillar.rail r).chan.abort ≠ .asked

/-- R23, R121: an ms tick, with the frame ends of both rails. The events it brings are due. A controller abort that the
tick itself asks for, by a CANCEL held for the check it ends, is taken before the judgement of its frame (entry 21). -/
def State.msTick (a b : Upstream) (s : State) : State :=
  let t := s.meetBounds
  t.tickTimers.onPillar (fun c p =>
    (p.frameEnd c .a (s.askedSince t .a) a).frameEnd c .b (s.askedSince t .b) b)

end Sys2Proof.Machine
end

