-- ==== Sys2Proof/Machine/ClockCommands.lean ====
section
/-!
DEFINITION. The commands of the timebase: the board reset, the ms tick, the reference pulse, and the events of the Station Clock
(spec/02, spec/11).
-/

namespace Sys2Proof.Machine

/-- RESET (R184): the part starts from its stored image, with the cause recorded. The check word of the image is not good
while a store runs, since R182 has made it so. -/
def execReset (cause : ResetCause) (s : State) : Host.Outcome State Fault Refusal :=
  .next (.boot cause s.store.image s.store.image.good s.pending)

/-- MS_TICK (R23): one ms tick, after the events still due from the tick before. -/
def execMsTick (a b : Upstream) (s : State) : Host.Outcome State Fault Refusal := external (State.msTick a b) s

/-- ABSENCE_EXPIRY (R27). -/
def execAbsenceExpiry (s : State) : Host.Outcome State Fault Refusal := .next s.tryAbsence

/-- GROWTH_STEP (R31). -/
def execGrowthStep (s : State) : Host.Outcome State Fault Refusal := .next s.tryGrowth

/-- ALIGNED_SET_EXPIRY (R34). -/
def execAlignedSetExpiry (s : State) : Host.Outcome State Fault Refusal := .next s.tryAligned

/-- REFPULSE (R24): a reference pulse, so many cycles after the last ms tick or the last pulse. -/
def execRefpulse (cycles : Nat) (s : State) : Host.Outcome State Fault Refusal :=
  external (fun s => s.setClock (s.clock.pulseArrives cycles)) s

end Sys2Proof.Machine
end

