-- ==== Sys2Proof/Machine/EventCommands.lean ====
section
/-!
DEFINITION. The event rows of the rails, the docks, the filter records and the grants (spec/03 to spec/08). Each takes its event when
it is due, and changes nothing otherwise (NOTES.md, entry 2).
-/

namespace Sys2Proof.Machine

/-- BASELINE_RISE (R114). -/
def execBaselineRise (dock : DockNo) (s : State) : Host.Outcome State Fault Refusal :=
  .next (s.onPillar (fun c => Pillar.tryRise c dock))

/-- BASELINE_RESET (R115). -/
def execBaselineReset (dock : DockNo) (s : State) : Host.Outcome State Fault Refusal :=
  .next (s.onPillar (fun c => Pillar.tryReset c dock))

/-- CHANNEL_TIMEOUT (R138). -/
def execChannelTimeout (rail : RailId) (s : State) : Host.Outcome State Fault Refusal :=
  .next (s.onPillar (fun c => Pillar.tryChanTimeout c rail))

/-- CLOSING_TIMEOUT (R136). -/
def execClosingTimeout (rail : RailId) (s : State) : Host.Outcome State Fault Refusal :=
  .next (s.onPillar (fun c => Pillar.tryClosing c rail))

/-- CONTROLLER_ABORT (R140). -/
def execControllerAbort (rail : RailId) (s : State) : Host.Outcome State Fault Refusal :=
  .next (s.onPillar (fun c => Pillar.tryAbort c rail))

/-- CHANNEL_OUTCOME (R141). -/
def execChannelOutcome (rail : RailId) (s : State) : Host.Outcome State Fault Refusal :=
  .next (s.onPillar (fun c => Pillar.tryOutcome c rail))

/-- QUIET_COUNT_RESTORE (R149). -/
def execQuietCountRestore (rail : RailId) (s : State) : Host.Outcome State Fault Refusal :=
  .next (s.onPillar (fun c => Pillar.tryRestore c rail))

/-- ARBITER_HANDOFF (R150). -/
def execArbiterHandoff (rail : RailId) (s : State) : Host.Outcome State Fault Refusal :=
  .next (s.onPillar (fun c => Pillar.tryHandOff c rail))

/-- SILENT_REPORT (R129). -/
def execSilentReport (dock : DockNo) (s : State) : Host.Outcome State Fault Refusal :=
  .next (s.onPillar (fun c => Pillar.trySilent c dock))

/-- FIRST_CODE_EVENT (R49, R131). -/
def execFirstCodeEvent (dock : DockNo) (s : State) : Host.Outcome State Fault Refusal :=
  .next (s.onPillar (fun c => Pillar.tryFirstCode c dock))

/-- CHANGE_EVENT (R44, R131). -/
def execChangeEvent (dock : DockNo) (s : State) : Host.Outcome State Fault Refusal :=
  .next (s.onPillar (fun c => Pillar.tryChange c dock))

/-- PRESENT_EVENT (R118). -/
def execPresentEvent (dock : DockNo) (s : State) : Host.Outcome State Fault Refusal :=
  .next (s.onPillar (fun c => Pillar.tryPresent c dock))

/-- ABSENT_EVENT (R118). -/
def execAbsentEvent (dock : DockNo) (s : State) : Host.Outcome State Fault Refusal :=
  .next (s.onPillar (fun c => Pillar.tryAbsent c dock))

/-- POOR_DOCK (R105). -/
def execPoorDock (dock : DockNo) (s : State) : Host.Outcome State Fault Refusal :=
  .next (s.onPillar (fun c => Pillar.tryPoor c dock))

/-- GRANTLESS_RELOCK_DEADLINE (R45). -/
def execGrantlessRelockDeadline (dock : DockNo) (s : State) : Host.Outcome State Fault Refusal :=
  .next (s.onPillar (fun c => Pillar.tryRelock c dock))

/-- GRANT_CONFIRM_EXPIRY (R70, R71). -/
def execGrantConfirmExpiry (grant : Byte) (s : State) : Host.Outcome State Fault Refusal :=
  .next (s.onPillar (fun c => Pillar.tryConfirmExpiry c grant.toNat))

/-- PULL_DEADLINE_EXPIRY (R77). -/
def execPullDeadlineExpiry (grant : Byte) (s : State) : Host.Outcome State Fault Refusal :=
  .next (s.onPillar (fun c => Pillar.tryPullExpiry c grant.toNat))

/-- RELOCK_DEADLINE_EXPIRY (R78). -/
def execRelockDeadlineExpiry (grant : Byte) (s : State) : Host.Outcome State Fault Refusal :=
  .next (s.onPillar (fun c => Pillar.tryRelockExpiry c grant.toNat))

/-- TRAIN_DEADLINE_EXPIRY (R153). -/
def execTrainDeadlineExpiry (rail : RailId) (s : State) : Host.Outcome State Fault Refusal :=
  .next (s.onPillar (fun c => Pillar.tryTrainExpiry c rail))

/-- SWEEP_END (R155). -/
def execSweepEnd (rail : RailId) (s : State) : Host.Outcome State Fault Refusal :=
  .next (s.onPillar (fun c => Pillar.trySweepEnd c rail))

end Sys2Proof.Machine
end

