-- ==== Sys2Proof/Machine/RiderCommands.lean ====
section
/-!
DEFINITION. The commands of the rider link and of the Token Check Unit (spec/01, spec/09).
-/

namespace Sys2Proof.Machine

/-- PRESENT (R163): the step in which the check byte of an accepted PRESENT frame is taken; the receiver enters HUNT. -/
def execPresent (ref : Byte) (token : Token) (s : State) : Host.Outcome State Fault Refusal :=
  external (fun s => { s with rider := s.rider.hunt }.acceptPresent ref token) s

/-- CANCEL (R164): the step in which the check byte of an accepted CANCEL frame is taken. -/
def execCancel (ref : Byte) (s : State) : Host.Outcome State Fault Refusal :=
  external (fun s => { s with rider := s.rider.hunt }.acceptCancel ref) s

/-- QUERY (R165): the step in which the check byte of an accepted QUERY frame is taken. -/
def execQuery (s : State) : Host.Outcome State Fault Refusal :=
  external (fun s => { s with rider := s.rider.hunt }.acceptQuery) s

/-- RIDER_BYTE_RECEIVED (R159, R160): one byte of the rider link. -/
def execRiderByteReceived (byte : Byte) (stopBit : Bool) (s : State) : Host.Outcome State Fault Refusal :=
  external (State.receive byte stopBit) s

/-- RIDER_GAP_TIMEOUT (R161). -/
def execRiderGapTimeout (s : State) : Host.Outcome State Fault Refusal := .next s.tryGap

/-- R166: the last byte of the frame in transmission has gone, and the next waiting frame begins. -/
def State.transmitComplete (s : State) : State :=
  if s.pillar.tx.isSome then s.event (fun _ p => { p with tx := none }) else s

/-- TRANSMIT_COMPLETE (R166). -/
def execTransmitComplete (s : State) : Host.Outcome State Fault Refusal := external State.transmitComplete s

/-- TAKE_PRESENTATION (R12). -/
def execTakePresentation (s : State) : Host.Outcome State Fault Refusal :=
  external (fun s => if s.canTake then s.take else s) s

/-- VERIFICATION_END (R15). -/
def execVerificationEnd (s : State) : Host.Outcome State Fault Refusal := external State.endCheck s

/-- HELD_CANCEL_APPLY (R21). -/
def execHeldCancelApply (s : State) : Host.Outcome State Fault Refusal := .next s.tryHeldCancel

/-- HELD_REQUEST_APPLY (R13). -/
def execHeldRequestApply (s : State) : Host.Outcome State Fault Refusal := .next s.tryHeldRequest

end Sys2Proof.Machine
end

