-- ==== Sys2Proof/Machine/StationCommands.lean ====
section
/-!
DEFINITION. The commands of the station link: one for each row of the command catalogue, the two selections that carry no request, and
the events of the port and of the Settings Store (spec/10, spec/11).
-/

namespace Sys2Proof.Machine

/-- LINK_SILENCE_EXPIRY (R172). -/
def execLinkSilenceExpiry (s : State) : Host.Outcome State Fault Refusal := .next s.trySilence

/-- WRITE_SELECTION_INVALID (R169, R187): a write selection with these bytes, the selection byte first. -/
def execWriteSelectionInvalid (bytes : List Byte) (s : State) : Host.Outcome State Fault Refusal :=
  external (State.writeSelection bytes) s

/-- READ_SELECTION (R170). -/
def execReadSelection (clocked : Nat) (s : State) : Host.Outcome State Fault Refusal :=
  external (State.readSelection clocked) s

/-- STATUS (R174). -/
def execStatus (s : State) : Host.Outcome State Fault Refusal := external (State.takeRequest .status) s

/-- READ_DOCK (R175). -/
def execReadDock (dock : Byte) (s : State) : Host.Outcome State Fault Refusal :=
  external (State.takeRequest (.readDock dock)) s

/-- READ_RECORDS (R178). -/
def execReadRecords (count : Byte) (s : State) : Host.Outcome State Fault Refusal :=
  external (State.takeRequest (.readRecords count)) s

/-- SET_TIME with mode IMMEDIATE (R32). -/
def execSetTimeImmediate (seconds : Word) (force : Byte) (s : State) : Host.Outcome State Fault Refusal :=
  external (State.takeRequest (.setTime seconds 1#8 force)) s

/-- SET_TIME with mode ALIGNED (R33). -/
def execSetTimeAligned (seconds : Word) (force : Byte) (s : State) : Host.Outcome State Fault Refusal :=
  external (State.takeRequest (.setTime seconds 2#8 force)) s

/-- KEY_LOAD (R4). -/
def execKeyLoad (slot epoch : Byte) (key : BitVec 128) (s : State) : Host.Outcome State Fault Refusal :=
  external (State.takeRequest (.keyLoad slot epoch key)) s

/-- KEY_DROP (R5). -/
def execKeyDrop (slot : Byte) (s : State) : Host.Outcome State Fault Refusal :=
  external (State.takeRequest (.keyDrop slot)) s

/-- DENY_ADD (R7). A body that does not agree with its count, or that no frame holds, is answered by R169 as any other
frame is. -/
def execDenyAdd (count : Byte) (ids : List Word) (s : State) : Host.Outcome State Fault Refusal :=
  if count.toNat = ids.length ∧ ids.length ≤ 19 then external (State.takeRequest (.denyAdd count ids)) s
  else external (State.writeSelection (requestSelection (.denyAdd count ids))) s

/-- DENY_REMOVE (R8). -/
def execDenyRemove (account : Word) (s : State) : Host.Outcome State Fault Refusal :=
  external (State.takeRequest (.denyRemove account)) s

/-- DENY_CLEAR (R8). -/
def execDenyClear (s : State) : Host.Outcome State Fault Refusal := external (State.takeRequest .denyClear) s

/-- HOLD_SET with kind RESERVE (R53). -/
def execHoldSetReserve (dock id : Byte) (expiry : Word) (s : State) : Host.Outcome State Fault Refusal :=
  external (State.takeRequest (.holdSet 1#8 dock id expiry)) s

/-- HOLD_SET with kind SERVICE (R54); its reservation id and expiry bytes are not read. -/
def execHoldSetService (dock : Byte) (s : State) : Host.Outcome State Fault Refusal :=
  external (State.takeRequest (.holdSet 2#8 dock 0#8 0#32)) s

/-- HOLD_CLEAR (R54). -/
def execHoldClear (dock : Byte) (s : State) : Host.Outcome State Fault Refusal :=
  external (State.takeRequest (.holdClear dock)) s

/-- BIKE_CONDITION (R56). -/
def execBikeCondition (dock condition : Byte) (s : State) : Host.Outcome State Fault Refusal :=
  external (State.takeRequest (.bikeCondition dock condition)) s

/-- LAMP_DIRECT (R58). -/
def execLampDirect (dock pattern : Byte) (s : State) : Host.Outcome State Fault Refusal :=
  external (State.takeRequest (.lampDirect dock pattern)) s

/-- LAMP_AUTO (R58). -/
def execLampAuto (dock : Byte) (s : State) : Host.Outcome State Fault Refusal :=
  external (State.takeRequest (.lampAuto dock)) s

/-- CLEAR_FAULT (R50). -/
def execClearFault (dock : Byte) (s : State) : Host.Outcome State Fault Refusal :=
  external (State.takeRequest (.clearFault dock)) s

/-- STAFF_RELEASE (R85). -/
def execStaffRelease (dock : Byte) (s : State) : Host.Outcome State Fault Refusal :=
  external (State.takeRequest (.staffRelease dock)) s

/-- ABORT_GRANT (R83). -/
def execAbortGrant (grant : Byte) (s : State) : Host.Outcome State Fault Refusal :=
  external (State.takeRequest (.abortGrant grant)) s

/-- SUSPEND (R86). -/
def execSuspend (s : State) : Host.Outcome State Fault Refusal := external (State.takeRequest .suspend) s

/-- RESUME (R86). -/
def execResume (s : State) : Host.Outcome State Fault Refusal := external (State.takeRequest .resume) s

/-- RAIL_TRAIN (R152). -/
def execRailTrain (rail : Byte) (s : State) : Host.Outcome State Fault Refusal :=
  external (State.takeRequest (.railTrain rail)) s

/-- SETTING_WRITE (R181). -/
def execSettingWrite (setting dock : Byte) (value : BitVec 48) (s : State) : Host.Outcome State Fault Refusal :=
  external (State.takeRequest (.settingWrite setting dock value)) s

/-- SETTING_READ (R181). -/
def execSettingRead (setting dock : Byte) (s : State) : Host.Outcome State Fault Refusal :=
  external (State.takeRequest (.settingRead setting dock)) s

/-- STORE_SETTINGS (R182). -/
def execStoreSettings (s : State) : Host.Outcome State Fault Refusal := external (State.takeRequest .storeSettings) s

/-- RESTORE_FACTORY (R183). -/
def execRestoreFactory (s : State) : Host.Outcome State Fault Refusal := external (State.takeRequest .restoreFactory) s

/-- SERVICE_ENTER (R185). -/
def execServiceEnter (s : State) : Host.Outcome State Fault Refusal := external (State.takeRequest .serviceEnter) s

/-- SERVICE_LEAVE (R186). -/
def execServiceLeave (s : State) : Host.Outcome State Fault Refusal := external (State.takeRequest .serviceLeave) s

/-- STORE_COMPLETE (R182). -/
def execStoreComplete (s : State) : Host.Outcome State Fault Refusal := external State.completeStore s

end Sys2Proof.Machine
end

