-- ==== Sys2Proof/Machine/Dispatch.lean ====
section
/-! DEFINITION. The meaning of each command: one arm for each constructor of Instr. -/

namespace Sys2Proof.Machine

def exec (i : Instr) (s : State) : Host.Outcome State Fault Refusal :=
  match i with
  | .reset cause => Sys2Proof.Machine.execReset cause s
  | .msTick a b => Sys2Proof.Machine.execMsTick a b s
  | .absenceExpiry => Sys2Proof.Machine.execAbsenceExpiry s
  | .growthStep => Sys2Proof.Machine.execGrowthStep s
  | .alignedSetExpiry => Sys2Proof.Machine.execAlignedSetExpiry s
  | .refpulse cycles => Sys2Proof.Machine.execRefpulse cycles s
  | .linkSilenceExpiry => Sys2Proof.Machine.execLinkSilenceExpiry s
  | .writeSelectionInvalid bytes => Sys2Proof.Machine.execWriteSelectionInvalid bytes s
  | .readSelection clocked => Sys2Proof.Machine.execReadSelection clocked s
  | .status => Sys2Proof.Machine.execStatus s
  | .readDock dock => Sys2Proof.Machine.execReadDock dock s
  | .readRecords count => Sys2Proof.Machine.execReadRecords count s
  | .setTimeImmediate seconds force => Sys2Proof.Machine.execSetTimeImmediate seconds force s
  | .setTimeAligned seconds force => Sys2Proof.Machine.execSetTimeAligned seconds force s
  | .keyLoad slot epoch key => Sys2Proof.Machine.execKeyLoad slot epoch key s
  | .keyDrop slot => Sys2Proof.Machine.execKeyDrop slot s
  | .denyAdd count ids => Sys2Proof.Machine.execDenyAdd count ids s
  | .denyRemove account => Sys2Proof.Machine.execDenyRemove account s
  | .denyClear => Sys2Proof.Machine.execDenyClear s
  | .heldRequestApply => Sys2Proof.Machine.execHeldRequestApply s
  | .holdSetReserve dock id expiry => Sys2Proof.Machine.execHoldSetReserve dock id expiry s
  | .holdSetService dock => Sys2Proof.Machine.execHoldSetService dock s
  | .holdClear dock => Sys2Proof.Machine.execHoldClear dock s
  | .bikeCondition dock condition => Sys2Proof.Machine.execBikeCondition dock condition s
  | .lampDirect dock pattern => Sys2Proof.Machine.execLampDirect dock pattern s
  | .lampAuto dock => Sys2Proof.Machine.execLampAuto dock s
  | .clearFault dock => Sys2Proof.Machine.execClearFault dock s
  | .staffRelease dock => Sys2Proof.Machine.execStaffRelease dock s
  | .abortGrant grant => Sys2Proof.Machine.execAbortGrant grant s
  | .suspend => Sys2Proof.Machine.execSuspend s
  | .resume => Sys2Proof.Machine.execResume s
  | .railTrain rail => Sys2Proof.Machine.execRailTrain rail s
  | .settingWrite setting dock value => Sys2Proof.Machine.execSettingWrite setting dock value s
  | .settingRead setting dock => Sys2Proof.Machine.execSettingRead setting dock s
  | .storeSettings => Sys2Proof.Machine.execStoreSettings s
  | .storeComplete => Sys2Proof.Machine.execStoreComplete s
  | .restoreFactory => Sys2Proof.Machine.execRestoreFactory s
  | .serviceEnter => Sys2Proof.Machine.execServiceEnter s
  | .serviceLeave => Sys2Proof.Machine.execServiceLeave s
  | .present ref token => Sys2Proof.Machine.execPresent ref token s
  | .cancel ref => Sys2Proof.Machine.execCancel ref s
  | .query => Sys2Proof.Machine.execQuery s
  | .riderGapTimeout => Sys2Proof.Machine.execRiderGapTimeout s
  | .transmitComplete => Sys2Proof.Machine.execTransmitComplete s
  | .takePresentation => Sys2Proof.Machine.execTakePresentation s
  | .verificationEnd => Sys2Proof.Machine.execVerificationEnd s
  | .heldCancelApply => Sys2Proof.Machine.execHeldCancelApply s
  | .baselineRise dock => Sys2Proof.Machine.execBaselineRise dock s
  | .baselineReset dock => Sys2Proof.Machine.execBaselineReset dock s
  | .channelTimeout rail => Sys2Proof.Machine.execChannelTimeout rail s
  | .closingTimeout rail => Sys2Proof.Machine.execClosingTimeout rail s
  | .controllerAbort rail => Sys2Proof.Machine.execControllerAbort rail s
  | .channelOutcome rail => Sys2Proof.Machine.execChannelOutcome rail s
  | .quietCountRestore rail => Sys2Proof.Machine.execQuietCountRestore rail s
  | .arbiterHandoff rail => Sys2Proof.Machine.execArbiterHandoff rail s
  | .silentReport dock => Sys2Proof.Machine.execSilentReport dock s
  | .firstCodeEvent dock => Sys2Proof.Machine.execFirstCodeEvent dock s
  | .changeEvent dock => Sys2Proof.Machine.execChangeEvent dock s
  | .presentEvent dock => Sys2Proof.Machine.execPresentEvent dock s
  | .absentEvent dock => Sys2Proof.Machine.execAbsentEvent dock s
  | .poorDock dock => Sys2Proof.Machine.execPoorDock dock s
  | .grantlessRelockDeadline dock => Sys2Proof.Machine.execGrantlessRelockDeadline dock s
  | .grantConfirmExpiry grant => Sys2Proof.Machine.execGrantConfirmExpiry grant s
  | .pullDeadlineExpiry grant => Sys2Proof.Machine.execPullDeadlineExpiry grant s
  | .relockDeadlineExpiry grant => Sys2Proof.Machine.execRelockDeadlineExpiry grant s
  | .trainDeadlineExpiry rail => Sys2Proof.Machine.execTrainDeadlineExpiry rail s
  | .sweepEnd rail => Sys2Proof.Machine.execSweepEnd rail s
  | .riderByteReceived byte stopBit => Sys2Proof.Machine.execRiderByteReceived byte stopBit s

end Sys2Proof.Machine
end

