-- ==== Sys2Proof/Safety.lean ====
section
/-! DEFINITION. The terms the statements use: when a request is applied and answered at once, when nothing is due, and
what holds in every state a run reaches. -/

namespace Sys2Proof.Machine

/-! ## A request that is applied and answered in the step that takes it -/

/-- R169, R170, R13: the port takes a request and its owner applies it in the same step. -/
def State.accepts (r : Request) (s : State) : Bool :=
  s.link.port ≠ .working && !(heldKind r && s.tcu.check.isSome)

/-- R169, R170, R172, R173: the port after a valid request has been taken, applied and answered. -/
def LinkPort.served (resp : Response) (l : LinkPort) : LinkPort :=
  { l with
    port := .answered, request := none, response := some resp, silence := 0, silenceDue := false, online := true
    ready := true }

/-- A state with a request answered. -/
def State.served (resp : Response) (s : State) : State := { s with link := s.link.served resp }

/-- The context of an event that a request brings: the request has set the link ONLINE (R172). -/
def State.onlineCtx (s : State) : Ctx := { s.ctx with offline := false }

/-- R176, R37: a record that enters the Record Queue at this moment, with the station second as its time, absent while the
clock is UNSET. -/
def State.record (body : RecordBody) (s : State) : Record :=
  { time := if s.clock.labelled then some s.clock.sec else none, body := body }

/-! ## What an event leaves in the pillar -/

/-- R166: the output side after an event: `out` is the output queue as the event itself leaves it. A frame in transmission
goes on, and with none the oldest waiting frame leaves the queue and is sent. -/
def Pillar.sends (c : Ctx) (out : List OutFrame) (p q : Pillar) : Prop :=
  match p.tx, out with
  | some x, _ => q.tx = some x ∧ q.out = out
  | none, [] => q.tx = none ∧ q.out = []
  | none, x :: rest => q.tx = some (q.build c x) ∧ q.out = rest

/-- R166: the output queue with a final OUTCOME placed: where an OUTCOME MOVED with its ref still waits, and at the tail
otherwise. -/
def finalFrames (ref : Byte) (outcome : RiderOutcome) (dock : DockNo) (out : List OutFrame) : List OutFrame :=
  if out.any (fun f => f.isMoved ref) then out.map (fun f => if f.isMoved ref then .outcome ref outcome dock else f)
  else out ++ [.outcome ref outcome dock]

/-- R177: what a lesser record brings to the Record Queue: it enters while there is room, and none enters at the
reserve. -/
def State.lesserRecord (body : RecordBody) (s : State) : List Record :=
  if s.pillar.records.length + s.pillar.active < 64 then [s.record body] else []

/-- R177: OVERFLOW after one lesser record: set when there was no room for it. -/
def State.lesserOverflow (s : State) : Bool :=
  s.pillar.overflow || decide (64 ≤ s.pillar.records.length + s.pillar.active)

/-! ## What a change of the Station Clock brings (R11, R29, R37, R55) -/

/-- R11: the spent list without the entries that carry no grant id and whose window has certainly closed. -/
def Pillar.prunedSpent (k : Clock) (p : Pillar) : List SpentEntry :=
  p.spent.filter (fun e =>
    e.grant.isSome || Decidable.decide (max (k.sec * 1000 + k.ms) k.high ≤ e.notAfter * 1000 + 999 + k.unc))

/-- R55: the reservations that lapse when S becomes `sec`, in dock-number order. -/
def Pillar.lapsing (sec : Nat) (p : Pillar) : List (DockNo × Byte) :=
  allDocks.filterMap (fun d =>
    match (p.dock d).hold with
    | some (.reserve id expiry) => if expiry < sec then some (d, id) else none
    | _ => none)

/-- R55: the hold of a dock after the clock has changed: a RESERVE hold whose expiry is less than an increased S is
removed. -/
def Pillar.holdAfter (old new : Clock) (d : DockNo) (p : Pillar) : Option Hold :=
  (p.dock d).hold.filter (fun h =>
    match h with
    | .reserve _ expiry => !(Decidable.decide (old.sec < new.sec) && Decidable.decide (expiry < new.sec))
    | .service => true)

/-- R29, R55: the records that a change of the clock makes, the CLOCK record before those of the reservations. -/
def Pillar.clockBodies (old new : Clock) (p : Pillar) : List RecordBody :=
  (if new.state = old.state then [] else [.clock new.state])
    ++ (if old.sec < new.sec then (p.lapsing new.sec).map (fun e => .reservationLapsed e.1 e.2) else [])

/-- R11, R29, R37, R55, R177: what a change of the clock from `old` to `new` brings: its records enter in turn while there is
room, with the new S as their time, and a second boundary prunes the spent list. The holds are `Pillar.holdAfter`. -/
def Pillar.clockBrings (old new : Clock) (p q : Pillar) : Prop :=
  let bodies := p.clockBodies old new
  let places := 64 - (p.records.length + p.active)
  q.records = p.records
    ++ (bodies.take places).map (fun body => { time := if new.labelled then some new.sec else none, body := body }) ∧
  q.overflow = (p.overflow || Decidable.decide (places < bodies.length)) ∧
  q.attention = (p.attention || !(bodies.take places).isEmpty) ∧
  q.spent = (if old.sec < new.sec then p.prunedSpent new else p.spent)

/-! ## Owed returns (R97, R98) -/

/-- R98: the owed returns in ascending dock number, each with the RETURN record it makes when it enters. -/
def Pillar.owing (p : Pillar) : List (DockNo × RecordBody) :=
  allDocks.filterMap (fun d => (p.dock d).owed.map (fun o => (d, .ret d o.tag o.notSensed o.intoService)))

/-! ## The tag of a token (R2) -/

/-- R2: so many shifts of the remainder, each by one bit to the right; a one shifted out brings the exclusive-or. -/
def remainderShifts : Nat → Word → Word
  | 0, r => r
  | n + 1, r => remainderShifts n (if r.toNat % 2 = 1 then (r >>> 1) ^^^ 0xEDB88320#32 else r >>> 1)

/-- R2: the bytes taken in turn into the remainder. -/
def remainder : List Byte → Word → Word
  | [], r => r
  | b :: rest, r => remainder rest (remainderShifts 8 (r ^^^ BitVec.ofNat 32 b.toNat))

/-- R2: the tag of a token under a key: the remainder over the 16 key bytes and the 24 bytes of the body, inverted. -/
def keyedTag (key : BitVec 128) (t : Token) : Word :=
  ~~~ (remainder (beBytes 16 key.toNat ++ tokenBody t) 0xFFFFFFFF#32)

/-! ## The stages of a check (R14 to R20) -/

/-- R14 to R20: whether a presentation under check passes each of the stages 1 to 13, by itself. -/
def State.passes (k : Check) (s : State) (stage : Nat) : Prop :=
  let t := k.pres.token
  match stage with
  | 1 =>
    t.format = 1#8 ∧ t.account ≠ 0#32 ∧ t.account ≠ 0xFFFFFFFF#32 ∧ t.dock.toNat ≤ 48 ∧ t.bikeClass.toNat ≤ 2 ∧
    (∀ n, 1 ≤ n → n < 8 → t.flags.getLsbD n = false) ∧ t.notBefore.toNat ≤ t.notAfter.toNat ∧
    t.notAfter.toNat ≤ t.notBefore.toNat + 600 ∧ k.refInUse = false
  | 2 => ∃ x, (s.tcu.keyA = some x ∨ s.tcu.keyB = some x) ∧ x.epoch = t.epoch
  | 3 =>
    ∀ x, (s.tcu.keyA = some x ∨ (s.tcu.keyB = some x ∧ ∀ y, s.tcu.keyA = some y → y.epoch ≠ t.epoch)) →
      x.epoch = t.epoch → keyedTag x.key t = t.tag
  | 4 => t.group.toNat = s.store.work.stationGroup ∨ t.group = 0xFFFF#16
  | 5 => s.clock.usable s.store.work.uncertaintyLimit = true
  | 6 => s.tcu.mark ≤ t.notBefore.toNat
  | 7 => t.notBefore.toNat * 1000 ≤ s.clock.sec * 1000 + s.clock.ms + s.clock.unc
  | 8 => max (s.clock.sec * 1000 + s.clock.ms) s.clock.high ≤ t.notAfter.toNat * 1000 + 999 + s.clock.unc
  | 9 => s.link.online = true ∨ t.flags.getLsbD 0 = true
  | 10 => t.account ∉ s.tcu.deny
  | 11 => ∀ e ∈ s.pillar.spent, e.serial ≠ t.serial
  | 12 => ∀ i g x, s.pillar.grant i = some g → g.rider = some x → x.account ≠ t.account
  | 13 => s.pillar.suspended = false ∧ s.store.inService = false
  | _ => True

/-- R14 to R20: the reason of a presentation refused at a stage. -/
def stageReason : Nat → Reason
  | 1 => .malformed
  | 2 => .keyUnknown
  | 3 => .tagBad
  | 4 => .wrongStation
  | 5 => .clock
  | 6 => .restarted
  | 7 => .early
  | 8 => .expired
  | 9 => .offline
  | 10 => .denied
  | 11 => .replayed
  | 12 => .accountBusy
  | 13 => .suspended
  | _ => .none

/-- A presentation under check passes every stage. -/
def State.passesAll (k : Check) (s : State) : Prop := ∀ stage, s.passes k stage

/-- R63: the id the next grant takes: the first value after the counter, 255 changing to 1, that is the id of no active
grant. -/
def Pillar.assigns (id : Nat) (p : Pillar) : Prop :=
  ∃ n, n ≤ 8 ∧ id = (p.lastGrant + n) % 255 + 1 ∧ p.findGrant id = none ∧
    ∀ m, m < n → (p.findGrant ((p.lastGrant + m) % 255 + 1)).isSome = true

/-- R67: step 1 or step 2 names a dock as the one candidate. -/
def Pillar.names (t : Token) (d : DockNo) (p : Pillar) : Prop :=
  (t.ticket ≠ 0#8 ∧ (∃ x, (p.dock d).hold = some (.reserve t.ticket x)) ∧
    ∀ e x, e ≠ d → (p.dock e).hold ≠ some (.reserve t.ticket x)) ∨
  ((t.ticket = 0#8 ∨ ∀ e x, (p.dock e).hold ≠ some (.reserve t.ticket x)) ∧ dockOperand t.dock = some d)

/-- R67: neither step 1 nor step 2 applies, and step 3 walks the Dock Order List. -/
def Pillar.namesNone (t : Token) (p : Pillar) : Prop :=
  (t.ticket = 0#8 ∨ ∀ e x, (p.dock e).hold ≠ some (.reserve t.ticket x)) ∧ t.dock = 0#8

/-! ## The changes of a dock that a grant or a fault brings (R46, R51) -/

/-- R51 take: the dock under a grant. -/
def Dock.taken (id : Nat) (k : Dock) : Dock :=
  { k with
    state := .releasing, cause := none, watch := none, poor := false, grant := some id
    hold := k.hold.filter (fun h => h = .service) }

/-- R51 end in place. -/
def Dock.keptInPlace (k : Dock) : Dock :=
  { k with state := .docked, cause := none, watch := none, poor := false, grant := none }

/-- R41, R51, R104: a dock that has entered EMPTY with its bike record cleared; the seat watch runs when the flag reads
present. -/
def State.emptied (d : DockNo) (s : State) : Dock :=
  { s.pillar.dock d with
    state := .empty, cause := none, bike := none, grant := none, poor := false
    hold := (s.pillar.dock d).hold.filter (fun h => h = .service)
    watch := if s.pillar.sensed d then some (s.store.work.seatTimeout * 1000) else none }

/-- R46, R51: a dock in FAULT, with its bike record cleared when the bike is gone. -/
def Dock.faulted (cause : FaultCause) (gone : Bool) (k : Dock) : Dock :=
  { k with
    state := .fault, cause := some cause, grant := none, recovery := false, watch := none, poor := false
    relock := none, ident := none
    bike := if gone then none else k.bike
    hold := if gone then k.hold.filter (fun h => h = .service) else k.hold }

/-- R47, R84: a dock in SILENT. -/
def Dock.silenced (k : Dock) : Dock :=
  { k with
    state := .silent, cause := none, grant := none, recovery := false, watch := none, poor := false, relock := none
    ident := none }

/-! ## The end and the move of a grant (R75, R87) -/

/-- R10, R87: the grant in a slot has ended: its record stands last, its OUTCOME is placed, its spent-list entry names no
grant and its slot is free. `lesser` is what else entered in the step, before it. -/
def State.grantEnded (i : Fin 8) (g : Grant) (outcome : FinalOutcome) (detail : Detail) (lesser : List Record) (s t : State) :
    Prop :=
  t.pillar.grant i = none ∧ (∀ j, j ≠ i → t.pillar.grant j = s.pillar.grant j) ∧
  t.pillar.records = s.pillar.records ++ lesser ++ [s.record (.grantEnd outcome g.id g.dock
    ((s.pillar.dock g.dock).bike.bind Bike.tag) (g.rider.map (fun r => (r.account, r.serial))) detail)] ∧
  t.pillar.spent = (if g.rider.isSome then
    s.pillar.spent.map (fun e => if e.grant = some g.id then { e with grant := none } else e) else s.pillar.spent) ∧
  s.pillar.sends s.ctx
    (match g.rider with
    | some r => finalFrames r.ref outcome.rider g.dock s.pillar.out
    | none => s.pillar.out) t.pillar

/-- R75: the grant in a slot has moved to dock `e`: the dock is taken, the grant is QUEUED on it, OUTCOME MOVED is placed and
its RELEASE waits at the tail of RIDER. -/
def State.grantMoved (i : Fin 8) (g : Grant) (r : RiderPart) (e : DockNo) (lesser : List Record) (s t : State) : Prop :=
  t.pillar.grant i = some { g with dock := e, moved := true, attempts := 1, timer := none, phase := .queued } ∧
  (∀ j, j ≠ i → t.pillar.grant j = s.pillar.grant j) ∧
  t.pillar.dock e = (s.pillar.dock e).taken g.id ∧
  (t.pillar.rail (railOf e)).rider.getLast? = some { cmd := .release g.id, dock := e } ∧
  t.pillar.records = s.pillar.records ++ lesser ∧ t.pillar.spent = s.pillar.spent ∧
  s.pillar.sends s.ctx (s.pillar.out ++ [.outcome r.ref .moved e]) t.pillar

/-- R75: re-allocation of the grant in a slot from its dock: it moves to the first dock of the walk, and with no such dock,
for a STATION grant and for one already moved it ends FAILED with a detail. Every dock but its old and its new one is as
it was, and so is the Dock Order List. -/
def State.reallocated (i : Fin 8) (g : Grant) (detail : Detail) (lesser : List Record) (s t : State) : Prop :=
  t.pillar.order = s.pillar.order ∧
  (∀ r e, g.rider = some r → g.moved = false → s.pillar.walk r.bikeClass = some e →
    s.grantMoved i g r e lesser t ∧ ∀ o, o ≠ g.dock → o ≠ e → t.pillar.dock o = s.pillar.dock o) ∧
  ((g.moved = true ∨ ∀ r, g.rider = some r → s.pillar.walk r.bikeClass = none) →
    s.grantEnded i g .failed detail lesser t ∧ ∀ o, o ≠ g.dock → t.pillar.dock o = s.pillar.dock o)

/-! ## The relock of a grant (R78 to R80) -/

/-- R78: the grant in a slot enters RELOCK with a cause: its dock is RELOCKING, a RELOCK waits in SAFETY, and no RELEASE of the
dock waits any more. -/
def State.relocks (i : Fin 8) (g : Grant) (cause : RelockCause) (s t : State) : Prop :=
  t.pillar.grant i = some { g with phase := .relock, cause := some cause, attempts := 1, timer := none } ∧
  (∀ j, j ≠ i → t.pillar.grant j = s.pillar.grant j) ∧
  t.pillar.dock g.dock =
    { s.pillar.dock g.dock with state := .relocking, cause := none, watch := none, poor := false } ∧
  (∀ e, e ≠ g.dock → t.pillar.dock e = s.pillar.dock e) ∧
  { cmd := .relock, dock := g.dock } ∈ (t.pillar.rail (railOf g.dock)).safety ∧
  (∀ src, ∀ m ∈ (t.pillar.rail (railOf g.dock)).queue src, m.dock = g.dock → m.cmd.isRelease = false) ∧
  t.pillar.order = s.pillar.order ∧ t.pillar.records = s.pillar.records ∧ t.pillar.spent = s.pillar.spent

/-- R79: the relock of the grant in a slot completes, at REST_HELD when `held` and at REST_EMPTY otherwise. -/
def State.relocked (i : Fin 8) (g : Grant) (held : Bool) (s t : State) : Prop :=
  (∀ e, e ≠ g.dock → t.pillar.dock e = s.pillar.dock e) ∧ t.pillar.overflow = s.pillar.overflow ∧
  (held = true → g.latePull = false →
    s.grantEnded i g (if g.cause = some .cancel then .cancelled else .notTaken) .relocked [] t ∧
    t.pillar.dock g.dock = (s.pillar.dock g.dock).keptInPlace ∧ t.pillar.order = s.pillar.order) ∧
  (held = true → g.latePull = true →
    s.grantEnded i g .released .latePull [] t ∧ t.pillar.order = s.pillar.order.filter (fun e => e != g.dock) ∧
    t.pillar.dock g.dock =
      { s.emptied g.dock with
        state := .returning, watch := none
        ident := some { kind := if (s.pillar.dock g.dock).recovery then .recovery else .ret, attempt := 1 } } ∧
    { cmd := .tagRead, dock := g.dock } ∈ (t.pillar.rail (railOf g.dock)).upkeep) ∧
  (held = false →
    s.grantEnded i g .released (if g.cause = some .emptied then .openNotSeen else .latePull) [] t ∧
    t.pillar.dock g.dock = s.emptied g.dock ∧ t.pillar.order = s.pillar.order.filter (fun e => e != g.dock))

/-- R77, R80: the dock of the grant in a slot has gone to FAULT with a cause, and the grant has ended, read from whether
the bike is gone; `stayed` is its outcome when the bike is not. -/
def State.faultEnded (i : Fin 8) (g : Grant) (cause : FaultCause) (gone : Bool) (stayed : FinalOutcome) (detail : Detail)
    (s t : State) : Prop :=
  s.grantEnded i g (if gone then .released else stayed) detail (s.lesserRecord (.dockFault g.dock cause.record)) t ∧
  t.pillar.overflow = s.lesserOverflow ∧ t.pillar.dock g.dock = (s.pillar.dock g.dock).faulted cause gone ∧
  (∀ e, e ≠ g.dock → t.pillar.dock e = s.pillar.dock e) ∧
  t.pillar.order = (if gone then s.pillar.order.filter (fun e => e != g.dock) else s.pillar.order)

/-- R80: the relock of the grant in a slot has failed. -/
def State.relockFailed (i : Fin 8) (g : Grant) (cause : FaultCause) (detail : Detail) (s t : State) : Prop :=
  s.faultEnded i g cause (!s.pillar.sensed g.dock || g.latePull)
    (if g.cause = some .cancel then .cancelled else .notTaken) detail t

/-- R71: the release of a grant's dock is given up: the dock is in FAULT UNREACHABLE with a relock started as a
precaution, and the grant is re-allocated. -/
def State.releaseGivenUp (i : Fin 8) (g : Grant) (s t : State) : Prop :=
  t.pillar.dock g.dock =
    { (s.pillar.dock g.dock).faulted .unreachable false with relock := some { attempt := 1, deadline := none } } ∧
  { cmd := .relock, dock := g.dock } ∈ (t.pillar.rail (railOf g.dock)).safety ∧ t.pillar.overflow = s.lesserOverflow ∧
  s.reallocated i g .unreachable (s.lesserRecord (.dockFault g.dock .unreachable)) t

/-! ## Returns and relocks without a grant (R45, R97) -/

/-- R96, R97: the RETURN record of a dock with a tag has been made: it has entered, or the dock owes it and a return it
already owed is lost, which sets OVERFLOW. -/
def State.returnRecorded (d : DockNo) (tag : Option Tag) (s t : State) : Prop :=
  let notSensed := !s.pillar.sensed d
  let intoService := decide ((s.pillar.dock d).hold = some .service)
  (s.pillar.records.length + s.pillar.active < 64 →
    t.pillar.records = s.pillar.records ++ [s.record (.ret d tag notSensed intoService)] ∧
    (t.pillar.dock d).owed = (s.pillar.dock d).owed ∧ t.pillar.overflow = s.pillar.overflow) ∧
  (64 ≤ s.pillar.records.length + s.pillar.active →
    t.pillar.records = s.pillar.records ∧
    (t.pillar.dock d).owed = some { tag := tag, notSensed := notSensed, intoService := intoService } ∧
    t.pillar.overflow = (s.pillar.overflow || (s.pillar.dock d).owed.isSome))

/-- R45: a relock without a grant has ended with the latch at rest, at REST_HELD when `held` and at REST_EMPTY otherwise:
its RELOCK waits no more, and a dock that was RELOCKING has gone where the rule says. -/
def State.rested (d : DockNo) (held : Bool) (s t : State) : Prop :=
  (t.pillar.dock d).relock = none ∧
  (∀ src, ∀ m ∈ (t.pillar.rail (railOf d)).queue src, m.dock = d → m.cmd.isRelock = false) ∧
  ((s.pillar.dock d).state ≠ .relocking →
    t.pillar.dock d = { s.pillar.dock d with relock := none } ∧ t.pillar.records = s.pillar.records ∧
    t.pillar.order = s.pillar.order ∧ t.pillar.overflow = s.pillar.overflow) ∧
  ((s.pillar.dock d).state = .relocking → held = true →
    t.pillar.records = s.pillar.records ∧ t.pillar.order = s.pillar.order ∧ t.pillar.overflow = s.pillar.overflow ∧
    ((s.pillar.dock d).recovery = false → (s.pillar.dock d).bike.isSome = true →
      t.pillar.dock d = { s.pillar.dock d with
        state := .docked, cause := none, watch := none, poor := false, relock := none }) ∧
    ((s.pillar.dock d).recovery = true ∨ (s.pillar.dock d).bike = none →
      t.pillar.dock d = { s.pillar.dock d with
        state := .returning, cause := none, watch := none, poor := false, relock := none
        ident := some { kind := if (s.pillar.dock d).recovery then .recovery else .ret, attempt := 1 } } ∧
      { cmd := .tagRead, dock := d } ∈ (t.pillar.rail (railOf d)).upkeep)) ∧
  ((s.pillar.dock d).state = .relocking → held = false →
    (t.pillar.dock d).state = .empty ∧ (t.pillar.dock d).bike = none ∧ (t.pillar.dock d).recovery = false ∧
    (t.pillar.dock d).watch = (if s.pillar.sensed d then some (s.store.work.seatTimeout * 1000) else none) ∧
    t.pillar.order =
      (if (s.pillar.dock d).bike.isSome then s.pillar.order.filter (fun e => e != d) else s.pillar.order) ∧
    t.pillar.records = s.pillar.records ++
      (if (s.pillar.dock d).recovery then s.lesserRecord (.dockRecovered d ((s.pillar.dock d).bike.bind Bike.tag))
      else if (s.pillar.dock d).bike.isSome then
        s.lesserRecord (.bikeMissing d ((s.pillar.dock d).bike.bind Bike.tag))
      else []))

/-- R49: recovery has acted on a SILENT dock by the confirmed code of its head. -/
def State.recovers (d : DockNo) (code : Code) (s t : State) : Prop :=
  (code = .restHeld →
    (t.pillar.dock d).state = .returning ∧ (t.pillar.dock d).recovery = true ∧
    (t.pillar.dock d).ident = some { kind := .recovery, attempt := 1 } ∧
    (t.pillar.dock d).bike = (s.pillar.dock d).bike ∧ t.pillar.order = s.pillar.order ∧
    t.pillar.records = s.pillar.records ∧ { cmd := .tagRead, dock := d } ∈ (t.pillar.rail (railOf d)).upkeep) ∧
  (code = .restEmpty →
    (t.pillar.dock d).state = .empty ∧ (t.pillar.dock d).bike = none ∧
    (t.pillar.dock d).watch = (if s.pillar.sensed d then some (s.store.work.seatTimeout * 1000) else none) ∧
    t.pillar.order =
      (if (s.pillar.dock d).bike.isSome then s.pillar.order.filter (fun e => e != d) else s.pillar.order) ∧
    t.pillar.records = s.pillar.records ++
      s.lesserRecord (.dockRecovered d ((s.pillar.dock d).bike.bind Bike.tag)) ∧
    t.pillar.overflow = s.lesserOverflow) ∧
  (code = .open →
    (t.pillar.dock d).state = .relocking ∧ (t.pillar.dock d).recovery = true ∧
    (t.pillar.dock d).relock.isSome = true ∧ (t.pillar.dock d).bike = (s.pillar.dock d).bike ∧
    ((s.pillar.dock d).relock = none → (t.pillar.dock d).relock = some { attempt := 1, deadline := none } ∧
      { cmd := .relock, dock := d } ∈ (t.pillar.rail (railOf d)).safety) ∧
    t.pillar.order = s.pillar.order ∧ t.pillar.records = s.pillar.records) ∧
  (code = .jammed →
    t.pillar.dock d = (s.pillar.dock d).faulted .jammed false ∧ t.pillar.order = s.pillar.order ∧
    t.pillar.records = s.pillar.records ++ s.lesserRecord (.dockFault d .jammed) ∧
    t.pillar.overflow = s.lesserOverflow) ∧
  (code = .training →
    t.pillar.dock d = s.pillar.dock d ∧ t.pillar.order = s.pillar.order ∧ t.pillar.records = s.pillar.records)

/-! ## Training (R153, R156, R158) -/

/-- R153, R156, R158: training takes the first of the heads given, in address order, whose missed-scan count does not stand
at 8, at its TRAIN_ON step; with none it is IDLE. Every head skipped before it has result FAILED, its delay, and a filter
record not initialised. A stray TRAIN_OFF that waited for a head taken or skipped is withdrawn and its mark cleared; a head
skipped with its code TRAINING is sent one. Every other of the heads is as it was. -/
def Pillar.trainingTakes (r : RailId) (heads : List DockNo) (p q : Pillar) : Prop :=
  let skipped := heads.takeWhile (fun d => Decidable.decide (8 ≤ (p.head d).missed))
  let taken := (heads.drop skipped.length).head?
  (q.rail r).training = taken.map (fun d =>
    { dock := d, step := .on, attempt := 1, deadline := none, scans := 0, firstGood := false, good := 0#32
      result := .none }) ∧
  (∀ d ∈ skipped,
    q.head d = { p.head d with
      lastTraining := .failed
      stray := Decidable.decide ((p.head d).confirmed = some .training) || ((p.head d).stray && !p.waits d Cmd.isStray) } ∧
    q.filter d = (p.filter d).uninitialise ∧
    ((p.head d).confirmed = some .training → ((p.head d).stray && !p.waits d Cmd.isStray) = false →
      { cmd := .trainOff true, dock := d } ∈ (q.rail r).upkeep)) ∧
  (∀ d, taken = some d →
    q.head d = { p.head d with stray := (p.head d).stray && !p.waits d Cmd.isStray } ∧ q.filter d = p.filter d ∧
    { cmd := .trainOn, dock := d } ∈ (q.rail r).upkeep ∧ q.waits d Cmd.isStray = false) ∧
  (∀ d ∈ heads, d ∉ skipped → taken ≠ some d → q.head d = p.head d ∧ q.filter d = p.filter d)

/-- R156: the training of head `d` has ended with a result: the result is stored, the delay kept and the filter record not
initialised; a head whose code is TRAINING is sent a stray TRAIN_OFF (R158); and training takes the next fitted head
above. -/
def Pillar.trainingMoves (r : RailId) (d : DockNo) (result : TrainResult) (p q : Pillar) : Prop :=
  let above := (railDocks r).filter (fun e => p.isFitted e && Decidable.decide (d < e))
  (q.head d).lastTraining = result ∧ (q.head d).delay = (p.head d).delay ∧ q.filter d = (p.filter d).uninitialise ∧
  ((q.head d).confirmed = some .training → (q.head d).stray = true ∧
    ((p.head d).stray = false → { cmd := .trainOff true, dock := d } ∈ (q.rail r).upkeep)) ∧
  p.trainingTakes r above q ∧
  (∀ e, e ≠ d → e ∉ above → q.head e = p.head e ∧ q.filter e = p.filter e)

/-! ## The arbiter (R150) -/

/-- R150: the order in which sources of equal threshold give way. -/
def Source.rank : Source → Nat
  | .safety => 0
  | .station => 1
  | .rider => 2
  | .upkeep => 3

/-- R150: a source contends: it has a contending message and its threshold is at most q. -/
def Rail.contends (src : Source) (m : Msg) (x : Rail) : Prop := x.contending src = some m ∧ x.threshold src ≤ x.quiet

/-! ## The station request of a row -/

/-- The request that a row of the opcode table stands for, when it is a row of the command catalogue. -/
def commandRequest : Instr → Option Request
  | .status => some .status
  | .readDock dock => some (.readDock dock)
  | .readRecords count => some (.readRecords count)
  | .setTimeImmediate seconds force => some (.setTime seconds 1#8 force)
  | .setTimeAligned seconds force => some (.setTime seconds 2#8 force)
  | .keyLoad slot epoch key => some (.keyLoad slot epoch key)
  | .keyDrop slot => some (.keyDrop slot)
  | .denyAdd count ids => some (.denyAdd count ids)
  | .denyRemove account => some (.denyRemove account)
  | .denyClear => some .denyClear
  | .holdSetReserve dock id expiry => some (.holdSet 1#8 dock id expiry)
  | .holdSetService dock => some (.holdSet 2#8 dock 0#8 0#32)
  | .holdClear dock => some (.holdClear dock)
  | .bikeCondition dock condition => some (.bikeCondition dock condition)
  | .lampDirect dock pattern => some (.lampDirect dock pattern)
  | .lampAuto dock => some (.lampAuto dock)
  | .clearFault dock => some (.clearFault dock)
  | .staffRelease dock => some (.staffRelease dock)
  | .abortGrant grant => some (.abortGrant grant)
  | .suspend => some .suspend
  | .resume => some .resume
  | .railTrain rail => some (.railTrain rail)
  | .settingWrite setting dock value => some (.settingWrite setting dock value)
  | .settingRead setting dock => some (.settingRead setting dock)
  | .storeSettings => some .storeSettings
  | .restoreFactory => some .restoreFactory
  | .serviceEnter => some .serviceEnter
  | .serviceLeave => some .serviceLeave
  | .reset _ | .msTick _ _ | .absenceExpiry | .growthStep | .alignedSetExpiry | .refpulse _ | .linkSilenceExpiry
  | .writeSelectionInvalid _ | .readSelection _ | .heldRequestApply | .storeComplete | .present _ _ | .cancel _
  | .query | .riderGapTimeout | .transmitComplete | .takePresentation | .verificationEnd | .heldCancelApply
  | .baselineRise _ | .baselineReset _ | .channelTimeout _ | .closingTimeout _ | .controllerAbort _
  | .channelOutcome _ | .quietCountRestore _ | .arbiterHandoff _ | .silentReport _ | .firstCodeEvent _
  | .changeEvent _ | .presentEvent _ | .absentEvent _ | .poorDock _ | .grantlessRelockDeadline _
  | .grantConfirmExpiry _ | .pullDeadlineExpiry _ | .relockDeadlineExpiry _ | .trainDeadlineExpiry _ | .sweepEnd _
  | .riderByteReceived _ _ => none

/-- The row of the opcode table that a request falls under; a SET_TIME or a HOLD_SET of another mode or kind is a raw
frame of no row. -/
def requestRow : Request → Option Instr
  | .status => some .status
  | .readDock dock => some (.readDock dock)
  | .readRecords count => some (.readRecords count)
  | .setTime seconds mode force =>
    if mode = 1#8 then some (.setTimeImmediate seconds force)
    else if mode = 2#8 then some (.setTimeAligned seconds force)
    else none
  | .keyLoad slot epoch key => some (.keyLoad slot epoch key)
  | .keyDrop slot => some (.keyDrop slot)
  | .denyAdd count ids => some (.denyAdd count ids)
  | .denyRemove account => some (.denyRemove account)
  | .denyClear => some .denyClear
  | .holdSet kind dock id expiry =>
    if kind = 1#8 then some (.holdSetReserve dock id expiry)
    else if kind = 2#8 then some (.holdSetService dock)
    else none
  | .holdClear dock => some (.holdClear dock)
  | .bikeCondition dock condition => some (.bikeCondition dock condition)
  | .lampDirect dock pattern => some (.lampDirect dock pattern)
  | .lampAuto dock => some (.lampAuto dock)
  | .clearFault dock => some (.clearFault dock)
  | .staffRelease dock => some (.staffRelease dock)
  | .abortGrant grant => some (.abortGrant grant)
  | .suspend => some .suspend
  | .resume => some .resume
  | .railTrain rail => some (.railTrain rail)
  | .settingWrite setting dock value => some (.settingWrite setting dock value)
  | .settingRead setting dock => some (.settingRead setting dock)
  | .storeSettings => some .storeSettings
  | .restoreFactory => some .restoreFactory
  | .serviceEnter => some .serviceEnter
  | .serviceLeave => some .serviceLeave

/-! ## The receiver over a run of bytes -/

/-- R160: the receiver takes bytes in order, every stop bit 1; the requests are those of the frames they complete. -/
def RiderRx.feed : List Byte → RiderRx → RiderRx × List RiderRequest
  | [], r => (r, [])
  | b :: rest, r =>
    let step := r.byte b true
    let after := RiderRx.feed rest step.1
    (after.1, step.2.toList ++ after.2)

/-! ## Nothing due -/

/-- No event of a rail is due, and its next frame is scheduled. -/
def Pillar.quietRail (r : RailId) (p : Pillar) : Bool :=
  !p.chanTimeoutDue r && !p.closingTimeoutDue r && !p.abortDue r && !p.outcomeDue r && !p.restoreDue r
    && (p.rail r).silentDue.isNone && (p.rail r).codeDue.isNone && (p.rail r).presenceDue.isNone && !p.sweepDue r
    && !p.trainDue r && !p.arbiterDue r && !(p.rail r).frameDue

/-- No event of a dock is due. -/
def Pillar.quietDock (c : Ctx) (d : DockNo) (p : Pillar) : Bool :=
  !p.riseDue c d && !p.resetDue c d && !p.poorDue d && !p.relockDue d

/-- No deadline of the grant with an id is due. -/
def Pillar.quietGrant (id : Nat) (p : Pillar) : Bool :=
  !p.grantDue id .confirming && !p.grantDue id .open && !p.grantDue id .relock

/-- No event is due: every event row of the opcode table would change nothing, but for a controller abort that is asked
for and waits for the end of the frame in progress (R140). -/
def State.quiet (s : State) : Prop :=
  s.clock.absenceDue = false ∧ s.clock.growthDue = false ∧ s.clock.alignedDue = false ∧ s.link.silenceDue = false ∧
  s.rider.gapDue = false ∧ s.heldCancelDue = false ∧ s.heldRequestDue = false ∧
  (∀ r, s.pillar.quietRail r = true) ∧ (∀ d, s.pillar.quietDock s.ctx d = true) ∧
  (∀ i g, s.pillar.grant i = some g → s.pillar.quietGrant g.id = true)

/-! ## Invariants -/

/-- R170: READY is high exactly while the port is ANSWERED, a response waits exactly then, and a request is being worked
exactly while the port is WORKING. -/
def LinkPort.consistent (l : LinkPort) : Bool :=
  match l.port with
  | .idle => !l.ready && l.response.isNone && l.request.isNone
  | .working => !l.ready && l.response.isNone && l.request.isSome
  | .answered => l.ready && l.response.isSome && l.request.isNone

/-- R13, R170: the port is WORKING exactly while the TCU holds a request, and it is that request. -/
def State.portOk (s : State) : Prop := s.link.consistent = true ∧ s.link.request = s.tcu.held

/-- R179: ATTENTION is high while the Record Queue holds one or more records, and low while it is empty. -/
def Pillar.attentionOk (p : Pillar) : Prop := p.attention = !p.records.isEmpty

/-- R65, R177: the occupancy of the Record Queue plus the number of active grants never exceeds 64. -/
def Pillar.roomOk (p : Pillar) : Prop := p.records.length + p.active ≤ Config.roomMax

/-- R181, R116: every setting lies in its range, and the thresholds satisfy the constraint of R116. -/
def Settings.ok (w : Settings) : Prop :=
  (∀ n : SettingName, n ≠ .sampleDelay → n.range.1 ≤ w.read 0 n ∧ w.read 0 n ≤ n.range.2) ∧ w.thresholdsOk = true

/-- R22: a trim within its range. -/
def trimOk (trim : Nat) : Prop := Config.trimMin ≤ trim ∧ trim ≤ Config.trimMax

/-- R151, R181, R22: the settings, the delays and the trim of an image lie in their ranges. -/
def Image.ok (i : Image) : Prop := i.settings.ok ∧ (∀ d : DockNo, i.delays[d] ≤ 31) ∧ trimOk i.trim

/-- R22, R151, R181: the working settings, every sample delay and T lie in their ranges, and so do those of the stored
image and of a store in progress. -/
def State.settingsOk (s : State) : Prop :=
  s.store.work.ok ∧ (∀ d, (s.pillar.head d).delay ≤ 31) ∧ trimOk s.clock.trim ∧ s.store.image.ok ∧
  (∀ run, s.store.store = some run → run.captured.ok)

/-- R23, R28, R30, R35: the bounds of the Station Clock, its derived state, and H. -/
def Clock.ok (k : Clock) : Prop :=
  k.ms ≤ 999 ∧ k.sec ≤ Config.secondMax ∧ k.unc ≤ Config.uncertaintyMax ∧ k.labelUnc ≤ 5000 ∧ k.k ≤ 255 ∧
  k.now ≤ k.high ∧ k.absence ≤ Config.absenceMax ∧
  k.state = deriveClock k.labelled k.k k.lockedMark ∧ (k.state = .locked → k.lockedMark = true) ∧
  (k.labelled = false → k.sec = 0 ∧ k.ms = 0 ∧ k.k = 0) ∧
  (∀ a, k.aligned = some a → a.seconds ≤ Config.secondMax)

/-- R6: the deny list is in ascending order with no id twice, holds at most 512 ids, and every id lies in its range. -/
def Tcu.denyOk (t : Tcu) : Prop :=
  t.deny.Pairwise (· < ·) ∧ t.deny.length ≤ Config.denyMax ∧ ∀ id ∈ t.deny, accountInRange id = true

/-- R9: the spent list is in order of not-after, holds at most 256 entries, and no two carry the same serial. -/
def Pillar.spentOk (p : Pillar) : Prop :=
  p.spent.Pairwise (fun x y => x.notAfter ≤ y.notAfter) ∧ p.spent.length ≤ Config.spentMax ∧
  p.spent.Pairwise (fun x y => x.serial ≠ y.serial)

/-- R63, R68: the id counter lies in 0 to 255, active grants carry ids 1 to 255, no two the same, and no account appears
in two active RIDER grants. -/
def Pillar.grantsOk (p : Pillar) : Prop :=
  p.lastGrant ≤ 255 ∧
  (∀ i g, p.grant i = some g → 1 ≤ g.id ∧ g.id ≤ 255) ∧
  (∀ i j g h, p.grant i = some g → p.grant j = some h → i ≠ j → g.id ≠ h.id) ∧
  (∀ i j g h x y, p.grant i = some g → p.grant j = some h → i ≠ j → g.rider = some x → h.rider = some y →
    x.account ≠ y.account)

/-- R64: the state of the dock that a grant holds, by the phase of the grant. -/
def Phase.dockState : Phase → DockState
  | .queued | .sending | .confirming => .releasing
  | .open => .open
  | .relock => .relocking

/-- R64: every active grant holds exactly one dock, which names it and is in the state of its phase; a dock with a grant id
is held by the active grant with that id; and a dock in RELEASING or OPEN has a grant id. R10: a spent-list entry with a
grant id names an active RIDER grant of its serial. R52: no two holds carry the same reservation id. R45, R90: a relock
without a grant runs on a RELOCKING or FAULT dock that no grant holds, and an identification on a RETURNING dock. R59: a
dock outside the fitted set is UNFITTED. -/
def Pillar.linksOk (p : Pillar) : Prop :=
  (∀ i g, p.grant i = some g →
    (p.dock g.dock).grant = some g.id ∧ (p.dock g.dock).state = g.phase.dockState) ∧
  (∀ d id, (p.dock d).grant = some id → ∃ i g, p.grant i = some g ∧ g.id = id ∧ g.dock = d) ∧
  (∀ d, (p.dock d).state = .releasing ∨ (p.dock d).state = .open → (p.dock d).grant.isSome = true) ∧
  (∀ e ∈ p.spent, ∀ id, e.grant = some id →
    ∃ i g x, p.grant i = some g ∧ g.id = id ∧ g.rider = some x ∧ x.serial = e.serial) ∧
  (∀ d e id x y, d ≠ e → (p.dock d).hold = some (.reserve id x) → (p.dock e).hold ≠ some (.reserve id y)) ∧
  (∀ d, (p.dock d).relock.isSome = true →
    ((p.dock d).state = .relocking ∨ (p.dock d).state = .fault) ∧ (p.dock d).grant = none) ∧
  (∀ d, (p.dock d).ident.isSome = true → (p.dock d).state = .returning) ∧
  (∀ d, p.isFitted d = false → (p.dock d).state = .unfitted)

/-- R42: the Dock Order List holds exactly the docks whose bike record is present, each once; and a dock that is EMPTY,
that is RETURNING outside recovery, or whose identification is of kind RETURN holds no bike record (R41, R90). -/
def Pillar.orderOk (p : Pillar) : Prop :=
  p.order.Nodup ∧ (∀ d, d ∈ p.order ↔ (p.dock d).bike.isSome = true) ∧
  ∀ d, ((p.dock d).state = .empty → (p.dock d).bike = none) ∧
    ((p.dock d).state = .returning → (p.dock d).recovery = false → (p.dock d).bike = none) ∧
    (∀ i, (p.dock d).ident = some i → i.kind = .ret → (p.dock d).bike = none)

end Sys2Proof.Machine
end

