-- ==== Sys2Proof/WellFormed.lean ====
section
/-!
DEFINITION. Which commands the part's connections can carry at all.

Most operands are bytes and words, so that every value of them can be sent and the rule of the command answers it. The
checks here are the few the types do not make: an attention field is 0 to 24 (spec/13_formats.md), a pulse falls inside
the millisecond in progress (R22), the bytes of a write selection do not open with the read selection byte (R169), a
DENY_ADD body agrees with its count and fits a frame (R7, R169), and a grant id is 1 to 255 (R62).
-/

namespace Sys2Proof

/-- spec/13_formats.md: the attention field is 0 for none or a head address 1 to 24. -/
def Upstream.wellFormed (u : Upstream) : Bool := u.attention.toNat ≤ 24

/-- R22: no millisecond is longer than P + 1 cycles at a trim within its range, which is 4,136 cycles. -/
def longestMillisecond : Nat := 4136

/-- Whether the part's connections can carry the command. -/
def wellFormed : Instr → Bool
  | .msTick a b => a.wellFormed && b.wellFormed
  | .refpulse cycles => cycles ≤ longestMillisecond
  | .writeSelectionInvalid [] => false
  | .writeSelectionInvalid (first :: _) => first != 0xC3#8
  | .denyAdd count ids => count.toNat == ids.length && ids.length ≤ 19
  | .grantConfirmExpiry grant => grant != 0#8
  | .pullDeadlineExpiry grant => grant != 0#8
  | .relockDeadlineExpiry grant => grant != 0#8
  | .reset _ | .absenceExpiry | .growthStep | .alignedSetExpiry | .linkSilenceExpiry | .readSelection _ | .status
  | .readDock _ | .readRecords _ | .setTimeImmediate _ _ | .setTimeAligned _ _ | .keyLoad _ _ _ | .keyDrop _
  | .denyRemove _ | .denyClear | .heldRequestApply | .holdSetReserve _ _ _ | .holdSetService _ | .holdClear _
  | .bikeCondition _ _ | .lampDirect _ _ | .lampAuto _ | .clearFault _ | .staffRelease _ | .abortGrant _ | .suspend
  | .resume | .railTrain _ | .settingWrite _ _ _ | .settingRead _ _ | .storeSettings | .storeComplete
  | .restoreFactory | .serviceEnter | .serviceLeave | .present _ _ | .cancel _ | .query | .riderGapTimeout
  | .transmitComplete | .takePresentation | .verificationEnd | .heldCancelApply | .baselineRise _ | .baselineReset _
  | .channelTimeout _ | .closingTimeout _ | .controllerAbort _ | .channelOutcome _ | .quietCountRestore _
  | .arbiterHandoff _ | .silentReport _ | .firstCodeEvent _ | .changeEvent _ | .presentEvent _ | .absentEvent _
  | .poorDock _ | .grantlessRelockDeadline _ | .trainDeadlineExpiry _ | .sweepEnd _ | .riderByteReceived _ _ => true

end Sys2Proof
end

