-- ==== Sys2Proof/Certificates/Slice0/Obligations.lean ====
section
/-!
DEFINITION. The statements for the provers. In each, `s.settle` is the state in which the events still due have been taken
(NOTES.md, entry 2); an event row acts on the state as it stands.
-/

open Sys2Proof Sys2Proof.Machine

/-! ## The queue of commands, and reset -/

/-- The command at the front of the queue is executed on the state with the queue's rest; on an empty queue the block
idles (the model's choice, entry 14). -/
def Obligations.StepTakesTheFrontCommand : Prop :=
  (∀ (s : State) (c : Instr) (rest : List Instr), s.pending = c :: rest → step s = exec c { s with pending := rest }) ∧
  (∀ s : State, s.pending = [] → step s = .next s)

/-- R184 and the reset rules of each block: what a board reset leaves, for each outcome of the check word. -/
def Obligations.BoardResetStartsThePart : Prop :=
  ∀ (s : State) (cause : ResetCause), ∃ t, exec (.reset cause) s = .next t ∧
    t.store.image = s.store.image ∧ t.store.cause = cause ∧ t.store.busy = false ∧ t.store.store = none ∧
    t.store.inService = false ∧
    (s.store.image.check = s.store.image.computed →
      t.store.work = s.store.image.settings ∧ t.tcu.keyA = s.store.image.keyA ∧ t.tcu.keyB = s.store.image.keyB ∧
      t.clock.trim = s.store.image.trim ∧ t.pillar.fitted = s.store.image.settings.fitted ∧
      (∀ d : DockNo, (t.pillar.head d).delay = s.store.image.delays[d]) ∧ t.store.fromFactory = false) ∧
    (s.store.image.check ≠ s.store.image.computed →
      t.store.work = Settings.factory ∧ t.tcu.keyA = none ∧ t.tcu.keyB = none ∧ t.clock.trim = 1048576 ∧
      (∀ d, t.pillar.isFitted d = true ∧ (t.pillar.head d).delay = 8) ∧ t.store.fromFactory = true) ∧
    t.clock.state = .unset ∧ t.clock.sec = 0 ∧ t.clock.ms = 0 ∧ t.clock.unc = 65535 ∧ t.clock.labelUnc = 0 ∧
    t.clock.k = 0 ∧ t.clock.lockedMark = false ∧ t.clock.acc = 0 ∧ t.clock.pulse = none ∧ t.clock.absence = 0 ∧
    t.clock.growth = 0 ∧ t.clock.ticks = 0 ∧ t.clock.high = 0 ∧ t.clock.aligned = none ∧ t.tcu.mark = 0 ∧
    t.tcu.deny = [] ∧ t.tcu.check = none ∧ t.tcu.held = none ∧ t.tcu.heldCancel = none ∧ t.pillar.spent = [] ∧
    t.link.port = .idle ∧ t.link.request = none ∧ t.link.response = none ∧ t.link.ready = false ∧ t.link.silence = 0 ∧
    t.link.online = false ∧ t.rider.state = .hunt ∧ t.rider.gap = 0 ∧ t.rider.inbox = [] ∧ t.pillar.out = [] ∧
    t.pillar.tx = none ∧ t.pillar.records = [{ time := none, body := .start cause }] ∧ t.pillar.overflow = false ∧
    t.pillar.attention = true ∧ t.pillar.order = [] ∧ t.pillar.suspended = false ∧
    t.clock.labelled = false ∧ t.pillar.lastGrant = 0 ∧ (∀ i, t.pillar.grant i = none) ∧
    (∀ d, (t.pillar.dock d).state = (if t.pillar.isFitted d then .silent else .unfitted) ∧
      (t.pillar.dock d).cause = none ∧ (t.pillar.dock d).bike = none ∧ (t.pillar.dock d).hold = none ∧
      (t.pillar.dock d).grant = none ∧ (t.pillar.dock d).lamp = .auto ∧ (t.pillar.dock d).owed = none ∧
      (t.pillar.dock d).recovery = false ∧ (t.pillar.dock d).watch = none ∧ (t.pillar.dock d).poor = false ∧
      (t.pillar.dock d).relock = none ∧ (t.pillar.dock d).ident = none ∧
      (t.pillar.head d).confirmed = none ∧ (t.pillar.head d).candidate = none ∧ (t.pillar.head d).missed = 0 ∧
      (t.pillar.head d).lastTraining = .none ∧ (t.pillar.head d).stray = false ∧ t.pillar.filter d = Filter.fresh) ∧
    (∀ r, (t.pillar.rail r).pointer = 0 ∧ (t.pillar.rail r).pair = none ∧ (t.pillar.rail r).attention = none ∧
      (t.pillar.rail r).chan.state = .idle ∧ (t.pillar.rail r).chan.msg = none ∧ (t.pillar.rail r).quiet = 15 ∧
      (t.pillar.rail r).safety = [] ∧ (t.pillar.rail r).station = [] ∧ (t.pillar.rail r).rider = [] ∧
      (t.pillar.rail r).upkeep = [] ∧ (t.pillar.rail r).stationLow = false ∧ (t.pillar.rail r).riderLow = false ∧
      (t.pillar.rail r).training = none)

/-- The model's own reading of the event rows (entry 2): settling a state in which nothing is due changes nothing, so that a
command acts on such a state as it stands, and an event row whose event is not due changes nothing. Every row of the table
that is an event of the part's own is named: those of the clock and the links, those of the rails, the docks and the filter
records, and the deadlines. -/
def Obligations.NothingDueChangesNothing : Prop :=
  (∀ s : State, s.quiet → s.settle = s) ∧
  (∀ (s : State) (d : DockNo) (r : RailId),
    (s.pillar.silentDue d = false → exec (.silentReport d) s = .next s) ∧
    (s.pillar.codeDue d true = false → exec (.firstCodeEvent d) s = .next s) ∧
    (s.pillar.codeDue d false = false → exec (.changeEvent d) s = .next s) ∧
    (s.pillar.presenceDue d true = false → exec (.presentEvent d) s = .next s) ∧
    (s.pillar.presenceDue d false = false → exec (.absentEvent d) s = .next s) ∧
    (s.pillar.poorDue d = false → exec (.poorDock d) s = .next s) ∧
    (s.pillar.outcomeDue r = false → exec (.channelOutcome r) s = .next s) ∧
    (s.pillar.arbiterDue r = false → exec (.arbiterHandoff r) s = .next s) ∧
    (s.clock.growthDue = false → exec .growthStep s = .next s) ∧
    (s.link.silenceDue = false → exec .linkSilenceExpiry s = .next s)) ∧
  (∀ s : State,
    (s.clock.k = 0 ∨ s.clock.absence < 3000 → exec .absenceExpiry s = .next s) ∧
    ((∀ a, s.clock.aligned = some a → a.expiry < 2000) → exec .alignedSetExpiry s = .next s) ∧
    (s.rider.state = .hunt ∨ s.rider.gap < 21 → exec .riderGapTimeout s = .next s) ∧
    (s.tcu.check.isSome = true ∨ s.tcu.heldCancel = none → exec .heldCancelApply s = .next s) ∧
    (s.tcu.check.isSome = true ∨ s.tcu.heldCancel.isSome = true ∨ s.tcu.held = none →
      exec .heldRequestApply s = .next s)) ∧
  (∀ (s : State) (d : DockNo),
    ((s.pillar.filter d).initialised = false ∨ (s.pillar.filter d).bucket < s.store.work.bucket →
      exec (.baselineRise d) s = .next s) ∧
    ((s.pillar.filter d).initialised = false ∨ (s.pillar.filter d).lowRun < s.store.work.lowResetScans →
      exec (.baselineReset d) s = .next s) ∧
    ((∀ k, (s.pillar.dock d).relock = some k → k.deadline ≠ some 0) →
      exec (.grantlessRelockDeadline d) s = .next s)) ∧
  (∀ (s : State) (r : RailId),
    ((s.pillar.rail r).chan.due ≠ .timeout → exec (.channelTimeout r) s = .next s) ∧
    ((s.pillar.rail r).chan.due ≠ .closing → exec (.closingTimeout r) s = .next s) ∧
    ((s.pillar.rail r).chan.abort ≠ .due ∨ (s.pillar.rail r).chan.due = .timeout →
      exec (.controllerAbort r) s = .next s) ∧
    ((s.pillar.rail r).restoreDue = false → exec (.quietCountRestore r) s = .next s) ∧
    ((∀ k, (s.pillar.rail r).training = some k → k.deadline ≠ some 0) →
      exec (.trainDeadlineExpiry r) s = .next s) ∧
    ((∀ k, (s.pillar.rail r).training = some k → k.step = .sweep → k.scans < 64) →
      exec (.sweepEnd r) s = .next s)) ∧
  (∀ (s : State) (grant : Byte),
    ((∀ i g, s.pillar.grant i = some g → g.id = grant.toNat → g.phase = .confirming → g.timer ≠ some 0) →
      exec (.grantConfirmExpiry grant) s = .next s) ∧
    ((∀ i g, s.pillar.grant i = some g → g.id = grant.toNat → g.phase = .open → g.timer ≠ some 0) →
      exec (.pullDeadlineExpiry grant) s = .next s) ∧
    ((∀ i g, s.pillar.grant i = some g → g.id = grant.toNat → g.phase = .relock → g.timer ≠ some 0) →
      exec (.relockDeadlineExpiry grant) s = .next s))

/-- What every event of the pillar ends with: a LAMP in UPKEEP for each dock whose effective pattern changed or that left
SILENT (R57), and a transmission whenever a frame waits and none is going out (R166). Nothing else changes. The rules do
not say in which order several LAMPs of one event join; dock-number order is the model's reading (entry 18). -/
def Obligations.EventsEndWithLampsAndTransmission : Prop :=
  ∀ (c : Ctx) (f : Pillar → Pillar) (p : Pillar),
    let q := f p
    let t := p.event c f
    t.docks = q.docks ∧ t.order = q.order ∧ t.fitted = q.fitted ∧ t.filters = q.filters ∧ t.heads = q.heads ∧
    t.grants = q.grants ∧ t.lastGrant = q.lastGrant ∧ t.suspended = q.suspended ∧ t.spent = q.spent ∧
    t.records = q.records ∧ t.overflow = q.overflow ∧ t.attention = q.attention ∧
    (∀ r, { t.rail r with upkeep := [] } = { q.rail r with upkeep := [] }) ∧
    (∀ d, (q.dock d).state ≠ .silent → (q.dock d).state ≠ .unfitted →
      ((p.dock d).state = .silent ∨ (p.dock d).pattern ≠ (q.dock d).pattern) →
      { cmd := .lamp (q.dock d).pattern, dock := d } ∈ (t.rail (railOf d)).upkeep) ∧
    (∀ r, (t.rail r).upkeep =
      (((railDocks r).filter (fun d =>
        decide ((q.dock d).state ≠ .silent ∧ (q.dock d).state ≠ .unfitted ∧
          ((p.dock d).state = .silent ∨ (p.dock d).pattern ≠ (q.dock d).pattern)))).map (fun d =>
            ({ cmd := .lamp (q.dock d).pattern, dock := d } : Msg))).foldl joinTail (q.rail r).upkeep) ∧
    ((∀ d, ((q.dock d).state = .silent ∨ (q.dock d).state = .unfitted) ∨
      ((p.dock d).state ≠ .silent ∧ (p.dock d).pattern = (q.dock d).pattern)) →
      ∀ r, (t.rail r).upkeep = (q.rail r).upkeep) ∧
    (q.tx.isSome = true → t.tx = q.tx ∧ t.out = q.out) ∧
    (q.tx = none → q.out = [] → t.tx = none ∧ t.out = []) ∧
    (∀ x rest, q.tx = none → q.out = x :: rest → t.tx = some (q.build c x) ∧ t.out = rest)

/-! ## The Station Clock -/

/-- R22, R23, R27, R31, R34, R35: the Station Clock at an ms tick, and R11, R23, R37, R45, R55, R77, R104, R153, R161, R173: the
counts and timers of the other blocks and what the second boundary brings. `u` is the state in which the events still due
have been taken, and with them what must come about before one more ms tick passes: a check or a store at its bound ends,
and the idle TCU takes a presentation that waits (the model's choices, entries 2, 15 and 33). Where the tick is a second
boundary, its pruning and its lapses come before the events of the clock that the same tick brings (its choice, entry 36).
That the fraction accumulator, the length of the millisecond and the pulse count move at the tick as stated is the model's
reading of R22 and R24 (entry 4). -/
def Obligations.MsTickAdvancesTheClockAndTheTimers : Prop :=
  (∀ s : State, (∀ k, s.tcu.check = some k → k.ticks < 2) → (∀ run, s.store.store = some run → run.ticks < 150) →
    s.canTake = false → s.meetBounds = s) ∧
  (∀ (s u : State) (a b : Upstream), u = s.settle.meetBounds →
    ∃ t, exec (.msTick a b) s = .next t ∧
      t.clock.ticks = u.clock.ticks + 1 ∧ t.clock.absence = min 3000 (u.clock.absence + 1) ∧
      (u.clock.labelled = false → t.clock.sec = u.clock.sec ∧ t.clock.ms = u.clock.ms) ∧
      (u.clock.labelled = true → u.clock.ms < 999 → t.clock.sec = u.clock.sec ∧ t.clock.ms = u.clock.ms + 1) ∧
      (u.clock.labelled = true → ¬ u.clock.ms < 999 → u.clock.sec < 4294967295 →
        t.clock.sec = u.clock.sec + 1 ∧ t.clock.ms = 0) ∧
      (u.clock.labelled = true → ¬ u.clock.ms < 999 → ¬ u.clock.sec < 4294967295 →
        t.clock.sec = u.clock.sec ∧ t.clock.ms = u.clock.ms) ∧
      t.clock.high = max u.clock.high (t.clock.sec * 1000 + t.clock.ms) ∧
      t.clock.unc = u.clock.unc ∧ t.clock.labelUnc = u.clock.labelUnc ∧ t.clock.k = u.clock.k ∧
      t.clock.trim = u.clock.trim ∧ t.clock.labelled = u.clock.labelled ∧ t.clock.state = u.clock.state ∧
      t.clock.lockedMark = u.clock.lockedMark ∧
      (u.clock.labelled = true ∧ u.clock.k = 0 → t.clock.growth = u.clock.growth + 1 ∧
        t.clock.growthDue = decide (u.store.work.holdoverGrowth * 1000 ≤ u.clock.growth + 1)) ∧
      (¬ (u.clock.labelled = true ∧ u.clock.k = 0) → t.clock.growth = 0 ∧ t.clock.growthDue = false) ∧
      t.clock.msTrim = u.clock.trim ∧ t.clock.elapsed = 0 ∧
      t.clock.acc = (u.clock.acc + u.clock.msTrim % 256) % 256 ∧
      t.clock.pulse = u.clock.pulse.map (fun n => n +
        (u.clock.msTrim / 256 + (if 256 ≤ u.clock.acc + u.clock.msTrim % 256 then 1 else 0) - u.clock.elapsed)) ∧
      t.clock.aligned = u.clock.aligned.map (fun k => { k with expiry := k.expiry + 1 }) ∧
      t.tcu = { u.tcu with check := u.tcu.check.map (fun k => { k with ticks := k.ticks + 1 }) } ∧
      (∀ k, t.tcu.check = some k → k.ticks ≤ 2) ∧ (∀ run, t.store.store = some run → run.ticks ≤ 150)) ∧
  (∀ (s u : State) (a b : Upstream), u = s.settle.meetBounds →
    ∃ t, exec (.msTick a b) s = .next t ∧
      t.link = { u.link with
        silence := min (u.store.work.linkSilence * 1000) (u.link.silence + 1)
        silenceDue := u.link.online && decide (u.store.work.linkSilence * 1000 ≤ u.link.silence + 1) } ∧
      t.rider = { u.rider with gap := if u.rider.state = .hunt then 0 else u.rider.gap + 1 } ∧
      t.store = { u.store with store := u.store.store.map (fun run => { run with ticks := run.ticks + 1 }) } ∧
      (∀ d, t.pillar.dock d = { u.pillar.dock d with
        watch := countDown (u.pillar.dock d).watch
        relock := (u.pillar.dock d).relock.map (fun k => { k with deadline := countDown k.deadline })
        hold := u.pillar.holdAfter u.clock t.clock d }) ∧
      (∀ i, t.pillar.grant i = (u.pillar.grant i).map (fun g => { g with timer := countDown g.timer })) ∧
      t.pillar.order = u.pillar.order ∧ t.pillar.fitted = u.pillar.fitted ∧
      t.pillar.lastGrant = u.pillar.lastGrant ∧ t.pillar.suspended = u.pillar.suspended ∧
      u.pillar.clockBrings u.clock t.clock t.pillar ∧
      (u.pillar.tx.isSome = true ∨ u.pillar.out = [] → t.pillar.tx = u.pillar.tx ∧ t.pillar.out = u.pillar.out) ∧
      (∀ r, (t.pillar.rail r).frameDue = true ∧
        (t.pillar.rail r).training.map Training.deadline =
          (u.pillar.rail r).training.map (fun k => countDown k.deadline)))

/-- R123, R128, R130, R131, R154: at a frame end the scan of a fitted head, outside a training sweep, counts a missed scan or
updates the confirmed and candidate codes, and raises the silent report or the code event; a sweep scan is counted as good
or not and changes no code; every other head of the rail is as it was. The reply is read at the delay the head had when the
frame began, and so a delay changed within the frame does not reach it (the model's reading of R132 and R151, entry 6); a
silent report and a confirmed code are raised as events that are then due (entry 2). -/
def Obligations.ScanUpdatesTheScannedHead : Prop :=
  ∀ (s u : State) (a b x : Upstream) (r : RailId), u = s.settle.meetBounds → x = (match r with | .a => a | .b => b) →
    ∃ t, exec (.msTick a b) s = .next t ∧
      (∀ d, dockAt r (u.pillar.rail r).scan.addr = some d → u.pillar.isFitted d = true →
        (u.pillar.rail r).scan.kind ≠ .vacant → (u.pillar.rail r).scan.kind ≠ .sweep →
        (readScan x (u.pillar.rail r).scanDelay = none →
          t.pillar.head d =
            { u.pillar.head d with missed := min 8 ((u.pillar.head d).missed + 1), candidate := none } ∧
          ((u.pillar.head d).missed = 7 → (t.pillar.rail r).silentDue = some d)) ∧
        (∀ code raw, readScan x (u.pillar.rail r).scanDelay = some (code, raw) →
          ((u.pillar.head d).confirmed = some code →
            t.pillar.head d = { u.pillar.head d with missed := 0, candidate := none }) ∧
          ((u.pillar.head d).confirmed ≠ some code → (u.pillar.head d).candidate = some code →
            t.pillar.head d = { u.pillar.head d with missed := 0, confirmed := some code, candidate := none } ∧
            (t.pillar.rail r).codeDue = some (d, (u.pillar.head d).confirmed.isNone)) ∧
          ((u.pillar.head d).confirmed ≠ some code → (u.pillar.head d).candidate ≠ some code →
            t.pillar.head d = { u.pillar.head d with missed := 0, candidate := some code })) ∧
        (∀ e, railOf e = r → e ≠ d → t.pillar.head e = u.pillar.head e)) ∧
      (∀ d k good, dockAt r (u.pillar.rail r).scan.addr = some d → u.pillar.isFitted d = true →
        (u.pillar.rail r).scan.kind = .sweep → (u.pillar.rail r).training = some k →
        good = decide (readScan x (u.pillar.rail r).scanDelay = some (.training, 0xA55A)) →
        (∀ e, railOf e = r → t.pillar.head e = u.pillar.head e) ∧
        (t.pillar.rail r).training = some { k with
          deadline := countDown k.deadline
          scans := k.scans + 1
          firstGood := if k.scans % 2 = 0 then good else k.firstGood
          good := if k.scans % 2 = 1 ∧ k.firstGood = true ∧ good = true then k.good ||| (1#32 <<< (k.scans / 2))
            else k.good }) ∧
      ((∀ d, dockAt r (u.pillar.rail r).scan.addr = some d →
          u.pillar.isFitted d = false ∨ (u.pillar.rail r).scan.kind = .vacant) →
        ∀ e, railOf e = r → t.pillar.head e = u.pillar.head e ∧ t.pillar.filter e = u.pillar.filter e)

/-- R109, R111 to R115, R118, R131: what the scan of a frame end leaves in the filter record of the scanned dock, and that every
other record of the rail is as it was. The reply is read at the delay that stood when the frame began (the model's reading
of R132 and R151, entry 6), and a seed reads the confirmed code as this reply leaves it (its reading of R111 and R131, entry
17). The rise at a full bucket and the reset after a full low-run are BASELINE_RISE and BASELINE_RESET, which are then due,
and so is the presence event of a turned flag (entry 2). -/
def Obligations.ScanFeedsTheFilterRecord : Prop :=
  ∀ (s u : State) (a b x : Upstream) (r : RailId) (d : DockNo) (f : Filter) (w : Settings), u = s.settle.meetBounds →
    x = (match r with | .a => a | .b => b) → f = u.pillar.filter d → w = u.store.work →
    dockAt r (u.pillar.rail r).scan.addr = some d → u.pillar.isFitted d = true →
    (u.pillar.rail r).scan.kind ≠ .vacant →
    ∃ t, exec (.msTick a b) s = .next t ∧ (∀ e, railOf e = r → e ≠ d → t.pillar.filter e = u.pillar.filter e) ∧
      ((readScan x (u.pillar.rail r).scanDelay = none ∨
          ∃ raw, readScan x (u.pillar.rail r).scanDelay = some (.training, raw)) →
        t.pillar.filter d = f ∧ (t.pillar.rail r).presenceDue = (u.pillar.rail r).presenceDue) ∧
      (∀ code raw, readScan x (u.pillar.rail r).scanDelay = some (code, raw) → code ≠ .training →
        (t.pillar.filter d).lastRaw = some raw ∧
        (f.initialised = false →
          (t.pillar.rail r).presenceDue = (u.pillar.rail r).presenceDue ∧
          ((u.pillar.head d).confirmed = none ∨ (u.pillar.head d).confirmed = some .training →
            t.pillar.filter d = { f with lastRaw := some raw }) ∧
          ((u.pillar.head d).confirmed ≠ none → (u.pillar.head d).confirmed ≠ some .training →
            t.pillar.filter d =
              { initialised := true
                base := if (t.pillar.head d).confirmed = some .restHeld then raw - w.seedOffset else raw
                bucket := 0, lowRun := 0, onRun := 0, offRun := 0
                present := decide ((t.pillar.head d).confirmed = some .restHeld)
                lastRaw := some raw })) ∧
        (f.initialised = true → (t.pillar.filter d).initialised = true ∧
          (f.present = false → w.bikeThreshold ≤ raw - f.base → w.debounce ≤ f.onRun + 1 →
            (t.pillar.filter d).present = true ∧ (t.pillar.filter d).onRun = 0 ∧ (t.pillar.filter d).offRun = 0 ∧
            (t.pillar.rail r).presenceDue = some (d, true)) ∧
          (f.present = false → w.bikeThreshold ≤ raw - f.base → f.onRun + 1 < w.debounce →
            (t.pillar.filter d).present = false ∧ (t.pillar.filter d).onRun = f.onRun + 1 ∧
            (t.pillar.filter d).offRun = f.offRun ∧
            (t.pillar.rail r).presenceDue = (u.pillar.rail r).presenceDue) ∧
          (f.present = false → raw - f.base < w.bikeThreshold →
            (t.pillar.filter d).present = false ∧ (t.pillar.filter d).onRun = 0 ∧
            (t.pillar.filter d).offRun = f.offRun ∧
            (t.pillar.rail r).presenceDue = (u.pillar.rail r).presenceDue) ∧
          (f.present = true → raw - f.base + w.hysteresis < w.bikeThreshold → w.debounce ≤ f.offRun + 1 →
            (t.pillar.filter d).present = false ∧ (t.pillar.filter d).onRun = 0 ∧ (t.pillar.filter d).offRun = 0 ∧
            (t.pillar.rail r).presenceDue = some (d, false)) ∧
          (f.present = true → raw - f.base + w.hysteresis < w.bikeThreshold → f.offRun + 1 < w.debounce →
            (t.pillar.filter d).present = true ∧ (t.pillar.filter d).offRun = f.offRun + 1 ∧
            (t.pillar.filter d).onRun = f.onRun ∧
            (t.pillar.rail r).presenceDue = (u.pillar.rail r).presenceDue) ∧
          (f.present = true → w.bikeThreshold ≤ raw - f.base + w.hysteresis →
            (t.pillar.filter d).present = true ∧ (t.pillar.filter d).offRun = 0 ∧
            (t.pillar.filter d).onRun = f.onRun ∧
            (t.pillar.rail r).presenceDue = (u.pillar.rail r).presenceDue) ∧
          (f.base ≤ raw → raw - f.base ≤ w.noiseThreshold →
            (t.pillar.filter d).base = f.base ∧ (t.pillar.filter d).bucket = f.bucket + (raw - f.base) ∧
            (t.pillar.filter d).lowRun = 0) ∧
          (f.base ≤ raw → w.noiseThreshold < raw - f.base →
            (t.pillar.filter d).base = f.base ∧ (t.pillar.filter d).bucket = f.bucket ∧
            (t.pillar.filter d).lowRun = 0) ∧
          (raw < f.base → f.base - raw ≤ w.negNoise →
            (t.pillar.filter d).base = f.base - 1 ∧ (t.pillar.filter d).bucket = f.bucket ∧
            (t.pillar.filter d).lowRun = 0) ∧
          (raw < f.base → w.negNoise < f.base - raw →
            (t.pillar.filter d).base = f.base ∧ (t.pillar.filter d).bucket = f.bucket ∧
            (t.pillar.filter d).lowRun = f.lowRun + 1)))

/-- R123, R125 to R127, R132, R141: what a frame end leaves for the scheduling of the next frame and in the quiet count; and the
head that the next frame scans, by the first case that applies, with the delays at which the frame will be read. Settling
schedules the frame after the arbiter has acted, once the events of the frame end are taken (the model's reading, entry 2);
a frame is read at the delays that stand as it begins (entry 6). -/
def Obligations.FramesAreScheduled : Prop :=
  (∀ (s u : State) (a b x : Upstream) (r : RailId), u = s.settle.meetBounds →
    x = (match r with | .a => a | .b => b) →
    ∃ t, exec (.msTick a b) s = .next t ∧ (t.pillar.rail r).pointer = (u.pillar.rail r).pointer ∧
      (t.pillar.rail r).attention = (dockAt r x.attention.toNat).filter (fun d => u.pillar.isFitted d) ∧
      (t.pillar.rail r).pair = (u.pillar.rail r).pair.map (fun k => { k with firstMade := true }) ∧
      ((u.pillar.rail r).chan.state = .idle →
        (t.pillar.rail r).quiet = min 15 ((u.pillar.rail r).quiet + 1) ∧ (t.pillar.rail r).arbiterDue = true ∧
        (t.pillar.rail r).restoreDue = decide ((u.pillar.rail r).quiet = 7)) ∧
      ((u.pillar.rail r).chan.state ≠ .idle → (t.pillar.rail r).chan.state = .idle → (t.pillar.rail r).quiet = 0) ∧
      ((u.pillar.rail r).chan.state ≠ .idle → (t.pillar.rail r).chan.state ≠ .idle →
        (t.pillar.rail r).quiet = (u.pillar.rail r).quiet)) ∧
  (∀ (s : State) (r : RailId), (s.settle.pillar.rail r).frameDue = false) ∧
  (∀ (c : Ctx) (p : Pillar) (r : RailId), (p.rail r).frameDue = true →
    p.settleFrame c r = (p.tryHandOff c r).schedule r) ∧
  (∀ (p q : Pillar) (r : RailId) (x : Rail) (channel : Nat), q = p.schedule r → x = p.rail r →
    channel = (match x.chan.msg with | some (m, _) => (p.head m.dock).delay | none => 0) →
    q.docks = p.docks ∧ q.heads = p.heads ∧ q.filters = p.filters ∧ q.grants = p.grants ∧ q.records = p.records ∧
    (∀ o, o ≠ r → q.rail o = p.rail o) ∧
    (∀ k, x.pair = some k → k.firstMade = true → railOf k.dock = r →
      q.rail r = { x with
        pair := none, scan := { addr := headAddr k.dock, kind := .pair }, frameDue := false
        scanDelay := (p.head k.dock).delay, chanDelay := channel }) ∧
    ((∀ k, x.pair = some k → k.firstMade = false) →
      (∀ d, x.attention = some d → p.isFitted d = true → railOf d = r →
        q.rail r = { x with
          pair := some { dock := d, firstMade := false }, scan := { addr := headAddr d, kind := .pair }
          frameDue := false, scanDelay := (p.head d).delay, chanDelay := channel }) ∧
      ((∀ d, x.attention = some d → p.isFitted d = false) →
        (∀ k, x.training = some k → railOf k.dock = r → k.step ≠ .sweep →
          q.rail r = { x with
            scan := { addr := headAddr k.dock, kind := .training }, frameDue := false
            scanDelay := (p.head k.dock).delay, chanDelay := channel }) ∧
        (∀ k, x.training = some k → k.step = .sweep →
          q.rail r = { x with
            scan := { addr := headAddr k.dock, kind := .sweep }, frameDue := false
            scanDelay := k.scans / 2, chanDelay := channel }) ∧
        (x.training = none →
          (∀ d, railOf d = r → p.isFitted d = true →
            ((x.pointer < headAddr d ∧
                ∀ e, railOf e = r → p.isFitted e = true → x.pointer < headAddr e → headAddr d ≤ headAddr e) ∨
              ∀ e, railOf e = r → p.isFitted e = true → headAddr e ≤ x.pointer ∧ headAddr d ≤ headAddr e) →
            q.rail r = { x with
              pointer := headAddr d, scan := { addr := headAddr d, kind := .roundRobin }, frameDue := false
              scanDelay := (p.head d).delay, chanDelay := channel }) ∧
          ((∀ d, railOf d = r → p.isFitted d = false) →
            (q.rail r).pointer = x.pointer ∧ (q.rail r).pair = x.pair ∧
            (q.rail r).scan = { addr := if x.pointer = 0 then 1 else x.pointer, kind := .vacant })))))

/-- R24, R29: a pulse that only starts counting, and a pulse that is rejected. R27, R29, R31, R34, R36, R37: the three events
that the ms tick brings to the clock, which come after a second boundary of that tick (the model's choice, entry 36). -/
def Obligations.ClockEventsAndRejectedPulses : Prop :=
  (∀ (s u : State) (cycles : Nat), u = s.settle →
    (u.clock.pulse = none →
      exec (.refpulse cycles) s =
        .next { u with clock := { u.clock with pulse := some 0, elapsed := u.clock.elapsed + cycles } }) ∧
    (∀ n, u.clock.pulse = some n → (n + cycles < 4055040 ∨ 4136960 < n + cycles) →
      ∃ t, exec (.refpulse cycles) s = .next t ∧ t.clock.k = 0 ∧ t.clock.pulse = some 0 ∧
        t.clock.unc = u.clock.unc ∧ t.clock.labelUnc = u.clock.labelUnc ∧ t.clock.aligned = u.clock.aligned ∧
        t.clock.trim = u.clock.trim ∧ t.clock.ms = u.clock.ms ∧ t.clock.sec = u.clock.sec ∧
        t.clock.absence = u.clock.absence ∧ t.clock.labelled = u.clock.labelled ∧
        (u.clock.k = 0 → t.clock.state = u.clock.state ∧ t.pillar = u.pillar) ∧
        (u.clock.k ≠ 0 → t.clock.growth = 0 ∧
          t.clock.state = deriveClock u.clock.labelled 0 u.clock.lockedMark) ∧
        u.pillar.clockBrings u.clock t.clock t.pillar ∧ t.pillar.docks = u.pillar.docks ∧
        t.store = u.store ∧ t.link = u.link ∧ t.tcu = u.tcu ∧ t.rider = u.rider)) ∧
  (∀ s : State, s.clock.k ≠ 0 → 3000 ≤ s.clock.absence →
    ∃ t, exec .absenceExpiry s = .next t ∧ t.clock.k = 0 ∧ t.clock.growth = 0 ∧
      t.clock.state = deriveClock s.clock.labelled 0 s.clock.lockedMark ∧ t.clock.unc = s.clock.unc ∧
      t.clock.sec = s.clock.sec ∧ t.clock.ms = s.clock.ms ∧ t.clock.trim = s.clock.trim ∧
      t.clock.absence = s.clock.absence ∧ t.clock.aligned = s.clock.aligned ∧
      s.pillar.clockBrings s.clock t.clock t.pillar ∧ t.pillar.docks = s.pillar.docks) ∧
  (∀ s : State, s.clock.growthDue = true →
    exec .growthStep s =
      .next { s with
        clock := { s.clock with unc := min 65535 (s.clock.unc + 1), growth := 0, growthDue := false } }) ∧
  (∀ (s : State) (a : AlignedSet), s.clock.aligned = some a → 2000 ≤ a.expiry →
    ∃ t, exec .alignedSetExpiry s = .next t ∧ t.clock.sec = a.seconds ∧ t.clock.ms = 0 ∧
      t.clock.labelUnc = s.store.work.setUncertainty ∧ t.clock.unc = s.store.work.setUncertainty ∧
      t.clock.k = s.clock.k ∧ t.clock.labelled = true ∧ t.clock.aligned = none ∧ t.link = s.link ∧
      t.clock.high = (if a.forcedBack then a.seconds * 1000 else max s.clock.high (a.seconds * 1000)) ∧
      t.clock.state = deriveClock true s.clock.k false ∧
      t.tcu.mark = (if s.clock.labelled then s.tcu.mark else a.seconds - s.clock.ticks / 1000) ∧
      s.pillar.clockBrings s.clock t.clock t.pillar ∧
      ∀ d, t.pillar.dock d = { s.pillar.dock d with hold := s.pillar.holdAfter s.clock t.clock d })

/-- R25: the trim update at each accepted pulse, in every clock state, UNSET included. -/
def Obligations.AcceptedPulseUpdatesTheTrim : Prop :=
  ∀ (s u : State) (cycles n : Nat), u = s.settle → u.clock.pulse = some n → 4055040 ≤ n + cycles →
    n + cycles ≤ 4136960 →
    ∃ t, exec (.refpulse cycles) s = .next t ∧
      t.clock.trim = max 1038336 (min 1058816
        (max (u.clock.trim - 512) (min (u.clock.trim + 512) (((n + cycles) * 64 + 125) / 250)))) ∧
      t.clock.absence = 0 ∧ t.clock.pulse = some 0 ∧
      (u.clock.labelled = false → u.clock.aligned = none →
        t.clock.sec = u.clock.sec ∧ t.clock.ms = u.clock.ms ∧ t.clock.acc = u.clock.acc ∧ t.clock.k = u.clock.k ∧
        t.clock.state = u.clock.state ∧ t.pillar = u.pillar)

/-- R26, R27, R29, R37: the phase correction of an accepted pulse on a labelled clock with no aligned set pending; R33, R35,
R36: a pending aligned set is applied at an accepted pulse. Either may be a second boundary (R11, R55). -/
def Obligations.AcceptedPulseSetsTheTime : Prop :=
  (∀ (s u : State) (cycles n : Nat), u = s.settle → u.clock.pulse = some n → 4055040 ≤ n + cycles →
    n + cycles ≤ 4136960 → u.clock.labelled = true → u.clock.aligned = none →
    ∃ t, exec (.refpulse cycles) s = .next t ∧
      t.clock.ms = 0 ∧ t.clock.acc = 0 ∧ t.clock.k = min 255 (u.clock.k + 1) ∧
      t.clock.labelUnc = u.clock.labelUnc ∧ t.clock.labelled = true ∧
      (500 ≤ u.clock.ms → t.clock.sec = min 4294967295 (u.clock.sec + 1) ∧
        t.clock.unc = min 65535 (u.clock.labelUnc + (1000 - u.clock.ms) + 1)) ∧
      (u.clock.ms < 500 → t.clock.sec = u.clock.sec ∧ t.clock.unc = min 65535 (u.clock.labelUnc + u.clock.ms + 1)) ∧
      t.clock.high = max u.clock.high (t.clock.sec * 1000) ∧
      t.clock.state = deriveClock true (min 255 (u.clock.k + 1)) u.clock.lockedMark ∧ t.tcu = u.tcu ∧
      t.store = u.store ∧ t.link = u.link ∧ t.rider = u.rider ∧
      u.pillar.clockBrings u.clock t.clock t.pillar ∧ t.pillar.grants = u.pillar.grants ∧
      ∀ d, t.pillar.dock d = { u.pillar.dock d with hold := u.pillar.holdAfter u.clock t.clock d }) ∧
  (∀ (s u : State) (cycles n : Nat) (a : AlignedSet), u = s.settle → u.clock.pulse = some n → 4055040 ≤ n + cycles →
    n + cycles ≤ 4136960 → u.clock.aligned = some a →
    ∃ t, exec (.refpulse cycles) s = .next t ∧
      t.clock.sec = a.seconds ∧ t.clock.ms = 0 ∧ t.clock.acc = 0 ∧ t.clock.labelUnc = 0 ∧ t.clock.unc = 1 ∧
      t.clock.k = min 255 (u.clock.k + 1) ∧ t.clock.labelled = true ∧ t.clock.growth = 0 ∧ t.clock.aligned = none ∧
      t.clock.state = deriveClock true (min 255 (u.clock.k + 1)) false ∧
      (a.forcedBack = true → t.clock.high = a.seconds * 1000) ∧
      (a.forcedBack = false → t.clock.high = max u.clock.high (a.seconds * 1000)) ∧
      t.tcu.mark = (if u.clock.labelled then u.tcu.mark else a.seconds - u.clock.ticks / 1000) ∧
      u.pillar.clockBrings u.clock t.clock t.pillar ∧ t.pillar.grants = u.pillar.grants ∧
      ∀ d, t.pillar.dock d = { u.pillar.dock d with hold := u.pillar.holdAfter u.clock t.clock d })

/-- R29, R32, R33, R36, R37: SET_TIME in both modes, with the backward test and the second boundary of a set that raises
S. -/
def Obligations.SetTimeLabelsTheClock : Prop :=
  ∀ (s u : State) (seconds : Word) (force : Byte), u = s.settle → u.link.port ≠ .working → u.tcu.check = none →
    (force = 0#8 ∨ force = 1#8) →
    (u.clock.labelled = true ∧ seconds.toNat + 2 < u.clock.sec ∧ force = 0#8 →
      exec (.setTimeImmediate seconds force) s = .next (u.served (.refuse .timeBackward)) ∧
      exec (.setTimeAligned seconds force) s = .next (u.served (.refuse .timeBackward))) ∧
    (¬ (u.clock.labelled = true ∧ seconds.toNat + 2 < u.clock.sec ∧ force = 0#8) →
      (∃ t, exec (.setTimeImmediate seconds force) s = .next t ∧ t.clock.sec = seconds.toNat ∧ t.clock.ms = 0 ∧
        t.clock.labelUnc = u.store.work.setUncertainty ∧ t.clock.unc = u.store.work.setUncertainty ∧
        t.clock.k = u.clock.k ∧ t.clock.acc = u.clock.acc ∧ t.clock.trim = u.clock.trim ∧
        t.clock.pulse = u.clock.pulse ∧ t.clock.labelled = true ∧ t.clock.aligned = none ∧ t.clock.growth = 0 ∧
        t.clock.state = deriveClock true u.clock.k false ∧
        (u.clock.labelled = true ∧ seconds.toNat + 2 < u.clock.sec → t.clock.high = seconds.toNat * 1000) ∧
        (¬ (u.clock.labelled = true ∧ seconds.toNat + 2 < u.clock.sec) →
          t.clock.high = max u.clock.high (seconds.toNat * 1000)) ∧
        t.tcu.mark = (if u.clock.labelled then u.tcu.mark else seconds.toNat - u.clock.ticks / 1000) ∧
        u.pillar.clockBrings u.clock t.clock t.pillar ∧ t.pillar.grants = u.pillar.grants ∧
        (∀ d, t.pillar.dock d = { u.pillar.dock d with hold := u.pillar.holdAfter u.clock t.clock d }) ∧
        t.link = u.link.served .ok) ∧
      exec (.setTimeAligned seconds force) s =
        .next ({ u with clock := { u.clock with
          aligned := some {
            seconds := seconds.toNat
            forcedBack := u.clock.labelled && decide (seconds.toNat + 2 < u.clock.sec)
            expiry := 0 } } }.served .ok))

/-! ## The Station Link Port -/

/-- R169, R187: a write selection that carries no valid request. R170, R172: a read selection, and the fall of the link to
OFFLINE. -/
def Obligations.SelectionsWithoutARequest : Prop :=
  (∀ (s u : State) (rest : List Byte), u = s.settle →
    (u.link.port ≠ .working →
      (rest.length ≠ beNat (rest.take 2) + 3 ∨ beNat (rest.take 2) < 1 ∨ 80 < beNat (rest.take 2) ∨
        byteSum rest ≠ 0#8) →
      exec (.writeSelectionInvalid (0x3C#8 :: rest)) s = .next { u with
        link := { u.link with port := .answered, request := none, response := some { code := .badFrame, body := [] },
                              ready := true } }) ∧
    (u.link.port ≠ .working → rest.length = beNat (rest.take 2) + 3 → 1 ≤ beNat (rest.take 2) →
      beNat (rest.take 2) ≤ 80 → byteSum rest = 0#8 →
      requestOf (rest.getD 2 0#8) ((rest.drop 3).take (beNat (rest.take 2) - 1)) = none →
      exec (.writeSelectionInvalid (0x3C#8 :: rest)) s = .next { u with
        link := { u.link with port := .answered, request := none,
                              response := some { code := .badRequest, body := [] }, ready := true } }) ∧
    (u.link.port = .working → exec (.writeSelectionInvalid (0x3C#8 :: rest)) s = .next u) ∧
    (∀ first, first ≠ 0x3C#8 → first ≠ 0xC3#8 → exec (.writeSelectionInvalid (first :: rest)) s = .next u)) ∧
  (∀ (s u : State) (n : Nat) (r : Response), u = s.settle → u.link.port = .answered → u.link.response = some r →
    (r.bytes.length ≤ n →
      exec (.readSelection n) s = .next { u with
        link := { u.link with port := .idle, response := none, ready := false, clockedOut := r.bytes.take n } }) ∧
    (n < r.bytes.length →
      exec (.readSelection n) s = .next { u with link := { u.link with clockedOut := r.bytes.take n } })) ∧
  (∀ (s u : State) (n : Nat), u = s.settle → u.link.port ≠ .answered →
    exec (.readSelection n) s = .next { u with link := { u.link with clockedOut := List.replicate n 0#8 } }) ∧
  (∀ s : State, s.link.silenceDue = true →
    exec .linkSilenceExpiry s = .next { s with link := { s.link with online := false, silenceDue := false } })

/-- R171: a request refused with any code other than OK, OK_CLAMPED or FULL changes nothing. -/
def Obligations.RefusedRequestsChangeNothing : Prop :=
  ∀ (r : Request) (s : State), (applyRequest r s).2.code ≠ .ok → (applyRequest r s).2.code ≠ .okClamped →
    (applyRequest r s).2.code ≠ .full → (applyRequest r s).1 = s

/-- R174, R175, R181: STATUS, READ_DOCK and SETTING_READ are answered OK and change nothing but the port. R98, R177 to R179:
READ_RECORDS; the response carries what left the queue, the OVERFLOW at the start and the occupancy at the end. When records
left, the owed returns enter in ascending dock number while there is room. -/
def Obligations.ReadoutsAndRecordsAreAnswered : Prop :=
  (∀ (s u : State), u = s.settle → u.link.port ≠ .working →
    exec .status s = .next (u.served (.okWith ({ u with link := u.link.take .status }.statusBody))) ∧
    (∀ (dock : Byte) (d : DockNo), dockOperand dock = some d →
      exec (.readDock dock) s = .next (u.served (.okWith
        ((u.pillar.dock d).bytes d ++ [(u.pillar.dock d).pattern.code] ++ (u.pillar.head d).bytes
          ++ (u.pillar.filter d).bytes)))) ∧
    (∀ (setting dock : Byte) (name : SettingName), settingOperand setting = some name →
      (name = .sampleDelay → (dockOperand dock).isSome = true) →
      exec (.settingRead setting dock) s = .next (u.served (.okWith
        (beBytes 6 (u.store.work.read (match dockOperand dock with
          | some d => (u.pillar.head d).delay
          | none => 0) name)))))) ∧
  (∀ (s u : State) (count : Byte) (left : List Record) (entering : List (DockNo × RecordBody)), u = s.settle →
    u.link.port ≠ .working → 1 ≤ count.toNat → count.toNat ≤ 8 →
    entering = (if u.pillar.records = [] then []
      else u.pillar.owing.take (64 - (u.pillar.records.length - count.toNat + u.pillar.active))) →
    left = u.pillar.records.drop count.toNat ++ entering.map (fun e => u.record e.2) →
    ∃ docks : Vector Dock 48,
      exec (.readRecords count) s = .next ({ u with
        pillar := { u.pillar with
          docks := docks
          records := left
          overflow := u.pillar.overflow && !left.isEmpty
          attention := !left.isEmpty } }.served
        (.okWith ([numByte (min count.toNat u.pillar.records.length), flagByte u.pillar.overflow, numByte left.length]
            ++ (u.pillar.records.take count.toNat).flatMap Record.bytes))) ∧
      ∀ d : DockNo, docks[d] =
        (if d ∈ entering.map Prod.fst then { u.pillar.dock d with owed := none } else u.pillar.dock d))

/-! ## The Token Check Unit -/

/-- R4, R5: KEY_LOAD and KEY_DROP, taken and refused: a slot outside A and B and an epoch that the other slot carries are
BAD_VALUE, an empty slot is NOT_FOUND, and a store in progress is BUSY. -/
def Obligations.KeyRequestsChangeOneSlot : Prop :=
  ∀ (s u : State) (slot epoch : Byte) (key : BitVec 128), u = s.settle → u.link.port ≠ .working → u.tcu.check = none →
    (u.store.busy = false → slot = 1#8 → (∀ k, u.tcu.keyB = some k → k.epoch ≠ epoch) →
      exec (.keyLoad slot epoch key) s =
        .next ({ u with tcu := { u.tcu with keyA := some { epoch := epoch, key := key } } }.served .ok)) ∧
    (u.store.busy = false → slot = 2#8 → (∀ k, u.tcu.keyA = some k → k.epoch ≠ epoch) →
      exec (.keyLoad slot epoch key) s =
        .next ({ u with tcu := { u.tcu with keyB := some { epoch := epoch, key := key } } }.served .ok)) ∧
    (u.store.busy = false → slot = 1#8 → u.tcu.keyA ≠ none →
      exec (.keyDrop slot) s = .next ({ u with tcu := { u.tcu with keyA := none } }.served .ok)) ∧
    (u.store.busy = false → slot = 2#8 → u.tcu.keyB ≠ none →
      exec (.keyDrop slot) s = .next ({ u with tcu := { u.tcu with keyB := none } }.served .ok)) ∧
    (slot ≠ 1#8 → slot ≠ 2#8 →
      exec (.keyLoad slot epoch key) s = .next (u.served (.refuse .badValue)) ∧
      exec (.keyDrop slot) s = .next (u.served (.refuse .badValue))) ∧
    (∀ k, (slot = 1#8 ∧ u.tcu.keyB = some k ∨ slot = 2#8 ∧ u.tcu.keyA = some k) → k.epoch = epoch →
      exec (.keyLoad slot epoch key) s = .next (u.served (.refuse .badValue))) ∧
    ((slot = 1#8 ∧ u.tcu.keyA = none ∨ slot = 2#8 ∧ u.tcu.keyB = none) →
      exec (.keyDrop slot) s = .next (u.served (.refuse .notFound))) ∧
    (u.store.busy = true →
      ((slot = 1#8 ∧ ∀ k, u.tcu.keyB = some k → k.epoch ≠ epoch) ∨
          (slot = 2#8 ∧ ∀ k, u.tcu.keyA = some k → k.epoch ≠ epoch) →
        exec (.keyLoad slot epoch key) s = .next (u.served (.refuse .busy))) ∧
      (slot = 1#8 ∧ u.tcu.keyA ≠ none ∨ slot = 2#8 ∧ u.tcu.keyB ≠ none →
        exec (.keyDrop slot) s = .next (u.served (.refuse .busy))))

/-- R6, R7: DENY_ADD on a deny list that keeps its order and its bound. With room for every new id the list gains exactly
the ids given; at the first new id that finds the list full adding stops with FULL; and a count or an id outside its range
is BAD_VALUE. The response carries the number of ids inserted in one byte (the model's choice, entry 10). -/
def Obligations.DenyAddInsertsTheIds : Prop :=
  ∀ (s u : State) (count : Byte) (ids : List Word) (new : Nat), u = s.settle → u.link.port ≠ .working →
    u.tcu.check = none → count.toNat = ids.length → ids.length ≤ 19 → u.tcu.denyOk →
    new = (ids.filter (fun id => !u.tcu.deny.contains id)).dedup.length →
    (1 ≤ ids.length → ids.length ≤ 16 → (∀ id ∈ ids, accountInRange id = true) → u.tcu.deny.length + new ≤ 512 →
      ∃ deny, exec (.denyAdd count ids) s =
          .next ({ u with tcu := { u.tcu with deny := deny } }.served (.okWith [numByte new])) ∧
        (∀ id, id ∈ deny ↔ id ∈ u.tcu.deny ∨ id ∈ ids) ∧ deny.Pairwise (· < ·) ∧
        deny.length = u.tcu.deny.length + new) ∧
    (1 ≤ ids.length → ids.length ≤ 16 → (∀ id ∈ ids, accountInRange id = true) → 512 < u.tcu.deny.length + new →
      ∃ deny before id after, ids = before ++ id :: after ∧ id ∉ deny ∧ deny.length = 512 ∧
        exec (.denyAdd count ids) s = .next ({ u with tcu := { u.tcu with deny := deny } }.served
          { code := .full, body := [numByte (512 - u.tcu.deny.length)] }) ∧
        (∀ x, x ∈ deny ↔ x ∈ u.tcu.deny ∨ x ∈ before) ∧ deny.Pairwise (· < ·)) ∧
    ((ids.length = 0 ∨ 16 < ids.length ∨ ∃ id ∈ ids, accountInRange id = false) →
      exec (.denyAdd count ids) s = .next (u.served (.refuse .badValue)))

/-- R8: DENY_REMOVE and DENY_CLEAR, on a deny list whose ids lie in their range (R6). -/
def Obligations.DenyRemoveAndClear : Prop :=
  ∀ (s u : State) (account : Word), u = s.settle → u.link.port ≠ .working → u.tcu.check = none → u.tcu.denyOk →
    (account ∈ u.tcu.deny →
      exec (.denyRemove account) s =
        .next ({ u with tcu := { u.tcu with deny := u.tcu.deny.erase account } }.served .ok)) ∧
    (account ∉ u.tcu.deny → exec (.denyRemove account) s = .next (u.served (.refuse .notFound))) ∧
    (account = 0#32 ∨ account = 0xFFFFFFFF#32 → exec (.denyRemove account) s = .next (u.served (.refuse .notFound))) ∧
    exec .denyClear s = .next ({ u with tcu := { u.tcu with deny := [] } }.served .ok)

/-- R2, R14 to R21: the verdict of a presentation that fails a stage, or whose serial stands in the spent list: refused with the
reason of the first stage that fails, or answered by a repeat of its grant. Nothing but the output side changes, and the
check ends. A CANCEL held for a presentation whose ref was in use is dropped with its verdict (the model's reading of R21,
entry 26). -/
def Obligations.RefusedAndRepeatedVerdicts : Prop :=
  (∀ (s u : State) (k : Check) (n : Nat), u = s.settle → u.tcu.check = some k → 1 ≤ n → n ≤ 13 → n ≠ 11 →
    ¬ u.passes k n → (∀ m, m < n → u.passes k m) →
    exec .verificationEnd s = .next { u with
      tcu := { u.tcu with check := none, heldCancel := if k.refInUse then none else u.tcu.heldCancel }
      pillar := u.pillar.event u.ctx (fun p => { p with out := p.out ++ [refusal k.pres.ref (stageReason n)] }) }) ∧
  (∀ (s u : State) (k : Check) (e : SpentEntry), u = s.settle → u.tcu.check = some k →
    (∀ n, n ≤ 10 → u.passes k n) → u.pillar.spentEntry k.pres.token.serial = some e →
    (e.grant = none →
      exec .verificationEnd s = .next { u with
        tcu := { u.tcu with check := none }
        pillar := u.pillar.event u.ctx (fun p => { p with out := p.out ++ [refusal k.pres.ref .replayed] }) }) ∧
    (∀ id i g, e.grant = some id → u.pillar.findGrant id = some (i, g) →
      exec .verificationEnd s = .next { u with
        tcu := { u.tcu with check := none }
        pillar := u.pillar.event u.ctx (fun p =>
          { p with out := p.out ++ [.verdict k.pres.ref true g.dock.number g.id .none true] }) }))

/-- R63, R65 to R68, R10, R11: the acceptance of a presentation that passes every stage, after the spent list has been pruned:
refused BUSY without a free slot or room; granted the dock that R67 chooses, with VERDICT GRANTED, the grant, its dock, its
spent-list entry and its RELEASE; or refused DOCK_UNAVAILABLE or NO_BIKE. Which free slot the grant takes is the model's
choice (the lowest, entry 7). -/
def Obligations.PassingPresentationIsGranted : Prop :=
  ∀ (s u : State) (k : Check) (t : Token), u = s.settle → u.tcu.check = some k → t = k.pres.token → u.passesAll k →
    ((∀ i, (u.pillar.grant i).isSome = true) ∨ 64 ≤ u.pillar.records.length + u.pillar.active + u.pillar.owedCount ∨
        256 ≤ (u.pillar.prunedSpent u.clock).length →
      exec .verificationEnd s = .next { u with
        tcu := { u.tcu with check := none }
        pillar := u.pillar.event u.ctx (fun p =>
          { p with spent := u.pillar.prunedSpent u.clock, out := p.out ++ [refusal k.pres.ref .busy] }) }) ∧
    (∀ i, u.pillar.freeSlot = some i → u.pillar.records.length + u.pillar.active + u.pillar.owedCount < 64 →
      (u.pillar.prunedSpent u.clock).length < 256 →
      (∀ reason,
        (∃ d, u.pillar.names t d ∧ (u.pillar.dock d).eligible t.bikeClass t.ticket = false ∧
            reason = Reason.dockUnavailable) ∨
          (u.pillar.namesNone t ∧ u.pillar.walk t.bikeClass = none ∧ reason = .noBike) →
        exec .verificationEnd s = .next { u with
          tcu := { u.tcu with check := none }
          pillar := u.pillar.event u.ctx (fun p =>
            { p with spent := u.pillar.prunedSpent u.clock, out := p.out ++ [refusal k.pres.ref reason] }) }) ∧
      (∀ d, (u.pillar.names t d ∧ (u.pillar.dock d).eligible t.bikeClass t.ticket = true) ∨
          (u.pillar.namesNone t ∧ u.pillar.walk t.bikeClass = some d) →
        ∃ v id before after, exec .verificationEnd s = .next v ∧ v.tcu = { u.tcu with check := none } ∧
          v.clock = u.clock ∧ v.link = u.link ∧ v.store = u.store ∧ v.rider = u.rider ∧
          u.pillar.findGrant id = none ∧ 1 ≤ id ∧ id ≤ 255 ∧ (u.pillar.lastGrant ≤ 255 → u.pillar.assigns id) ∧
          v.pillar.lastGrant = id ∧
          v.pillar.grant i = some {
            id := id, dock := d, phase := .queued, attempts := 1, moved := false, cancelPending := false, cause := none
            latePull := false, timer := none
            rider := some { ref := k.pres.ref, account := t.account, serial := t.serial, bikeClass := t.bikeClass } } ∧
          (∀ j, j ≠ i → v.pillar.grant j = u.pillar.grant j) ∧
          v.pillar.dock d = (u.pillar.dock d).taken id ∧ (∀ e, e ≠ d → v.pillar.dock e = u.pillar.dock e) ∧
          v.pillar.order = u.pillar.order ∧ v.pillar.records = u.pillar.records ∧
          v.pillar.filters = u.pillar.filters ∧ v.pillar.heads = u.pillar.heads ∧
          u.pillar.prunedSpent u.clock = before ++ after ∧
          v.pillar.spent = before ++ { serial := t.serial, notAfter := t.notAfter.toNat, grant := some id } :: after ∧
          (∀ e ∈ before, e.notAfter ≤ t.notAfter.toNat) ∧
          (∀ e, after.head? = some e → t.notAfter.toNat < e.notAfter) ∧
          u.pillar.sends u.ctx (u.pillar.out ++ [.verdict k.pres.ref true d.number id .none false]) v.pillar ∧
          v.pillar.fitted = u.pillar.fitted ∧ v.pillar.suspended = u.pillar.suspended ∧
          v.pillar.overflow = u.pillar.overflow ∧ v.pillar.attention = u.pillar.attention ∧
          (∀ r, r ≠ railOf d → v.pillar.rail r = u.pillar.rail r) ∧
          { v.pillar.rail (railOf d) with upkeep := [] } =
            { u.pillar.rail (railOf d) with
              upkeep := [], rider := (u.pillar.rail (railOf d)).rider ++ [{ cmd := .release id, dock := d }] } ∧
          (v.pillar.rail (railOf d)).upkeep =
            (if (v.pillar.dock d).pattern = (u.pillar.dock d).pattern then (u.pillar.rail (railOf d)).upkeep
            else joinTail (u.pillar.rail (railOf d)).upkeep { cmd := .lamp (v.pillar.dock d).pattern, dock := d })))

/-- R12, R14: the idle TCU takes the oldest presentation, with the test of its ref made as the check begins. R13, R169, R170: a
request that reaches the TCU while a check is in flight is held with the port WORKING, and one that comes while the port is
WORKING is discarded. R13, R21: what a check that has ended leaves behind is applied, the CANCEL before the request. That a
held CANCEL goes to the Grant Engine alone, whatever the inbox holds, is the model's reading of R21 (entry 26). -/
def Obligations.ChecksStartAndLeaveBehind : Prop :=
  (∀ (s u : State) (pres : Presentation) (rest : List Presentation), u = s.settle → u.tcu.check = none →
    u.tcu.heldCancel = none → u.tcu.held = none → u.rider.inbox = pres :: rest →
    ∃ inUse, exec .takePresentation s = .next { u with
        rider := { u.rider with inbox := rest }
        tcu := { u.tcu with check := some { pres := pres, refInUse := inUse, ticks := 0 } } } ∧
      (inUse = true ↔ ∃ i g x, u.pillar.grant i = some g ∧ g.rider = some x ∧ x.ref = pres.ref)) ∧
  (∀ (s u : State) (c : Instr) (r : Request), u = s.settle → wellFormed c = true → commandRequest c = some r →
    (u.link.port = .working → exec c s = .next u) ∧
    (u.link.port ≠ .working → u.tcu.check.isSome = true →
      ((∃ slot epoch key, c = .keyLoad slot epoch key) ∨ (∃ slot, c = .keyDrop slot) ∨
        (∃ count ids, c = .denyAdd count ids) ∨ (∃ account, c = .denyRemove account) ∨ c = .denyClear ∨
        c = .restoreFactory ∨ (∃ seconds force, c = .setTimeImmediate seconds force) ∨
        ∃ seconds force, c = .setTimeAligned seconds force) →
      exec c s = .next { u with
        link := { u.link with
          port := .working, request := some r, response := none, ready := false, silence := 0, silenceDue := false
          online := true }
        tcu := { u.tcu with held := some r } })) ∧
  (∀ (s : State) (ref : Byte), s.tcu.check = none → s.tcu.heldCancel = some ref →
    exec .heldCancelApply s = .next { s with
      tcu := { s.tcu with heldCancel := none }
      pillar := s.pillar.event s.ctx (Pillar.cancelRef s.ctx ref) }) ∧
  (∀ (s : State) (r : Request), s.tcu.check = none → s.tcu.heldCancel = none → s.tcu.held = some r →
    exec .heldRequestApply s = .next
      (let u := { s with tcu := { s.tcu with held := none } }
      { (applyRequest r u).1 with
        link := { (applyRequest r u).1.link with
          port := .answered, request := none, response := some (applyRequest r u).2, ready := true } }))

/-! ## The Dock Manager's requests -/

/-- R53, R54, R56: the holds and the condition of a dock's bike. R57, R58: LAMP_DIRECT and LAMP_AUTO set the lamp source of a
dock and nothing else of it, and queue a LAMP when its effective pattern changes. -/
def Obligations.DockRequestsSetOneField : Prop :=
  (∀ (s u : State) (dock id condition : Byte) (expiry : Word) (d : DockNo), u = s.settle → u.link.port ≠ .working →
    dockOperand dock = some d →
    (id ≠ 0#8 → (u.pillar.dock d).state = .docked → (u.pillar.dock d).hold = none → u.clock.labelled = true →
      u.clock.sec < expiry.toNat →
      (∀ e x, (u.pillar.dock e).hold ≠ some (.reserve id x)) →
      exec (.holdSetReserve dock id expiry) s = .next ({ u with
        pillar := u.pillar.event u.onlineCtx (fun p =>
          p.setDock d { u.pillar.dock d with hold := some (.reserve id expiry.toNat) }) }.served .ok)) ∧
    ((u.pillar.dock d).state ≠ .unfitted →
      exec (.holdSetService dock) s = .next ({ u with
        pillar := u.pillar.event u.onlineCtx (fun p =>
          p.setDock d { u.pillar.dock d with hold := some .service }) }.served .ok)) ∧
    ((u.pillar.dock d).hold ≠ none →
      exec (.holdClear dock) s = .next ({ u with
        pillar := u.pillar.event u.onlineCtx (fun p =>
          p.setDock d { u.pillar.dock d with hold := none }) }.served .ok)) ∧
    (∀ c bike, conditionOperand condition = some c → (u.pillar.dock d).bike = some bike →
      exec (.bikeCondition dock condition) s = .next ({ u with
        pillar := u.pillar.setDock d { u.pillar.dock d with bike := some { bike with condition := c } } }.served .ok))) ∧
  (∀ (s u : State) (dock : Byte) (d : DockNo) (source : LampSource) (c : Instr), u = s.settle →
    u.link.port ≠ .working → dockOperand dock = some d → (u.pillar.dock d).state ≠ .unfitted →
    ((∃ operand pattern, patternOperand operand = some pattern ∧ source = .direct pattern ∧
        c = .lampDirect dock operand) ∨ (source = .auto ∧ c = .lampAuto dock)) →
    ∃ t, exec c s = .next t ∧ t.link = u.link.served .ok ∧ t.clock = u.clock ∧ t.tcu = u.tcu ∧ t.store = u.store ∧
      t.pillar.dock d = { u.pillar.dock d with lamp := source } ∧
      (∀ e, e ≠ d → t.pillar.dock e = u.pillar.dock e) ∧ t.pillar.records = u.pillar.records ∧
      t.pillar.grants = u.pillar.grants ∧
      ((u.pillar.dock d).state ≠ .silent → (t.pillar.dock d).pattern ≠ (u.pillar.dock d).pattern →
        { cmd := .lamp (t.pillar.dock d).pattern, dock := d } ∈ (t.pillar.rail (railOf d)).upkeep) ∧
      ((t.pillar.dock d).pattern = (u.pillar.dock d).pattern →
        (t.pillar.rail (railOf d)).upkeep = (u.pillar.rail (railOf d)).upkeep))

/-- R49, R50, R110: CLEAR_FAULT re-derives a dock in FAULT: with no confirmed code it goes to SILENT, on REST_EMPTY to
EMPTY with its bike record cleared, and on the other codes as recovery has it. That the seat watch does not start on
REST_EMPTY, since the filter record becomes not initialised before recovery reads its flag, is the model's choice
(entry 34). -/
def Obligations.ClearFaultRederivesTheDock : Prop :=
  ∀ (s u : State) (dock : Byte) (d : DockNo), u = s.settle → u.link.port ≠ .working → dockOperand dock = some d →
    (u.pillar.dock d).state = .fault →
    ∃ t, exec (.clearFault dock) s = .next t ∧ t.link = u.link.served .ok ∧ t.clock = u.clock ∧ t.tcu = u.tcu ∧
      (t.pillar.filter d).initialised = false ∧ (t.pillar.filter d).lastRaw = (u.pillar.filter d).lastRaw ∧
      (∀ e, e ≠ d → t.pillar.dock e = u.pillar.dock e ∧ t.pillar.filter e = u.pillar.filter e) ∧
      t.pillar.grants = u.pillar.grants ∧
      ((u.pillar.head d).confirmed = none →
        (t.pillar.dock d).state = .silent ∧ (t.pillar.dock d).cause = none ∧ (t.pillar.dock d).relock = none ∧
        (t.pillar.dock d).bike = (u.pillar.dock d).bike ∧ (t.pillar.dock d).hold = (u.pillar.dock d).hold ∧
        t.pillar.records = u.pillar.records) ∧
      ((u.pillar.head d).confirmed = some .restEmpty →
        (t.pillar.dock d).state = .empty ∧ (t.pillar.dock d).bike = none ∧ (t.pillar.dock d).watch = none ∧
        t.pillar.records = u.pillar.records ++
          u.lesserRecord (.dockRecovered d ((u.pillar.dock d).bike.bind Bike.tag))) ∧
      ((u.pillar.head d).confirmed = some .restHeld →
        (t.pillar.dock d).state = .returning ∧ (t.pillar.dock d).recovery = true ∧
        (t.pillar.dock d).ident = some { kind := .recovery, attempt := 1 } ∧
        (t.pillar.dock d).bike = (u.pillar.dock d).bike) ∧
      ((u.pillar.head d).confirmed = some .open →
        (t.pillar.dock d).state = .relocking ∧ (t.pillar.dock d).recovery = true ∧
        (t.pillar.dock d).relock.isSome = true) ∧
      ((u.pillar.head d).confirmed = some .jammed →
        (t.pillar.dock d).state = .fault ∧ (t.pillar.dock d).cause = some .jammed ∧
        (t.pillar.dock d).bike = (u.pillar.dock d).bike ∧
        t.pillar.records = u.pillar.records ++ u.lesserRecord (.dockFault d .jammed)) ∧
      ((u.pillar.head d).confirmed = some .training →
        (t.pillar.dock d).state = .silent ∧ (t.pillar.dock d).bike = (u.pillar.dock d).bike)

/-! ## The Grant Engine's requests -/

/-- R51, R62, R63, R85: STAFF_RELEASE creates a STATION grant on a DOCKED dock when a slot is free and there is room. The whole
next state is given: what the request changes stands under `event`, which adds the LAMP and the transmission that every
event ends with. Which free slot the grant takes is the model's choice (the lowest, entry 7), and so is the one byte of the
response (entry 10). -/
def Obligations.StaffReleaseCreatesAStationGrant : Prop :=
  ∀ (s u : State) (dock : Byte) (d : DockNo) (i : Fin 8), u = s.settle → u.link.port ≠ .working →
    dockOperand dock = some d → (u.pillar.dock d).state = .docked → u.pillar.freeSlot = some i →
    u.pillar.records.length + u.pillar.active + u.pillar.owedCount < 64 →
    ∃ t id, exec (.staffRelease dock) s = .next t ∧ t.link = u.link.served (.okWith [numByte id]) ∧
      u.pillar.findGrant id = none ∧ 1 ≤ id ∧ id ≤ 255 ∧ (u.pillar.lastGrant ≤ 255 → u.pillar.assigns id) ∧
      t = { u with
        pillar := u.pillar.event u.onlineCtx (fun p =>
          (({ p with lastGrant := id }.setGrant i (some
            { id := id, dock := d, rider := none, phase := .queued, attempts := 1, moved := false
              cancelPending := false, cause := none, latePull := false, timer := none : Grant })).setDock d
            ((u.pillar.dock d).taken id)).modRail (railOf d) (fun x => { x with
              station := x.station ++ [({ cmd := .release id, dock := d } : Msg)] })) }.served (.okWith [numByte id]) ∧
      t.pillar.grant i = some {
        id := id, dock := d, rider := none, phase := .queued, attempts := 1, moved := false, cancelPending := false
        cause := none, latePull := false, timer := none } ∧
      (∀ j, j ≠ i → t.pillar.grant j = u.pillar.grant j) ∧ t.pillar.lastGrant = id ∧
      (t.pillar.dock d).state = .releasing ∧ (t.pillar.dock d).grant = some id ∧
      (t.pillar.dock d).bike = (u.pillar.dock d).bike ∧
      (t.pillar.dock d).hold = (u.pillar.dock d).hold.filter (fun h => h = .service) ∧
      t.pillar.dock d = (u.pillar.dock d).taken id ∧
      (∀ e, e ≠ d → t.pillar.dock e = u.pillar.dock e) ∧ t.pillar.order = u.pillar.order ∧
      t.pillar.records = u.pillar.records ∧ t.pillar.spent = u.pillar.spent ∧
      t.pillar.out.length ≤ u.pillar.out.length ∧ u.pillar.sends u.onlineCtx u.pillar.out t.pillar ∧
      t.clock = u.clock ∧ t.tcu = u.tcu ∧ t.store = u.store ∧ t.rider = u.rider ∧
      t.pillar.heads = u.pillar.heads ∧ t.pillar.filters = u.pillar.filters ∧ t.pillar.fitted = u.pillar.fitted ∧
      t.pillar.suspended = u.pillar.suspended ∧ t.pillar.overflow = u.pillar.overflow ∧
      t.pillar.attention = u.pillar.attention ∧ (∀ r, r ≠ railOf d → t.pillar.rail r = u.pillar.rail r) ∧
      { t.pillar.rail (railOf d) with upkeep := [] } =
        { u.pillar.rail (railOf d) with
          upkeep := [], station := (u.pillar.rail (railOf d)).station ++ [{ cmd := .release id, dock := d }] } ∧
      (t.pillar.rail (railOf d)).upkeep =
        (if (t.pillar.dock d).pattern = (u.pillar.dock d).pattern then (u.pillar.rail (railOf d)).upkeep
        else joinTail (u.pillar.rail (railOf d)).upkeep { cmd := .lamp (t.pillar.dock d).pattern, dock := d }) ∧
      (t.pillar.rail (railOf d)).station =
        (u.pillar.rail (railOf d)).station ++ [{ cmd := .release id, dock := d }]

/-- R78, R81, R83, R87: ABORT_GRANT ends a QUEUED grant CANCELLED with its bike in place, marks a SENDING grant and asks for the
abort of its RELEASE in the channel, sends a CONFIRMING and an OPEN grant to RELOCK, and is refused in RELOCK. -/
def Obligations.AbortGrantActsByPhase : Prop :=
  ∀ (s u : State) (grant : Byte) (i : Fin 8) (g : Grant), u = s.settle → u.link.port ≠ .working → grant ≠ 0#8 →
    u.pillar.findGrant grant.toNat = some (i, g) →
    (g.phase = .queued →
      ∃ t, exec (.abortGrant grant) s = .next t ∧ t.link = u.link.served .ok ∧ t.pillar.grant i = none ∧
        (∀ j, j ≠ i → t.pillar.grant j = u.pillar.grant j) ∧
        (t.pillar.dock g.dock).state = .docked ∧ (t.pillar.dock g.dock).grant = none ∧
        (t.pillar.dock g.dock).bike = (u.pillar.dock g.dock).bike ∧ t.pillar.order = u.pillar.order ∧
        t.pillar.dock g.dock = (u.pillar.dock g.dock).keptInPlace ∧
        (∀ e, e ≠ g.dock → t.pillar.dock e = u.pillar.dock e) ∧
        t.pillar.records = u.pillar.records ++ [u.record (.grantEnd .cancelled g.id g.dock
          ((u.pillar.dock g.dock).bike.bind Bike.tag) (g.rider.map (fun r => (r.account, r.serial))) .beforeSend)] ∧
        (∀ m ∈ (t.pillar.rail (railOf g.dock)).rider ++ (t.pillar.rail (railOf g.dock)).station,
          m.dock = g.dock → m.cmd.isRelease = false)) ∧
    (g.phase = .sending → g.cancelPending = false →
      ∃ t, exec (.abortGrant grant) s = .next t ∧ t.link = u.link.served .ok ∧
        t.pillar.grant i = some { g with cancelPending := true } ∧
        (∀ j, j ≠ i → t.pillar.grant j = u.pillar.grant j) ∧ t.pillar.docks = u.pillar.docks ∧
        t.pillar.records = u.pillar.records ∧
        (∀ source, (u.pillar.rail (railOf g.dock)).chan.msg =
            some ({ cmd := .release g.id, dock := g.dock }, source) →
          (u.pillar.rail (railOf g.dock)).chan.outcome = none →
          (t.pillar.rail (railOf g.dock)).chan =
            { (u.pillar.rail (railOf g.dock)).chan with abort := .asked })) ∧
    (g.phase = .confirming →
      ∃ t, exec (.abortGrant grant) s = .next t ∧ t.link = u.link.served .ok ∧
        u.relocks i { g with cancelPending := true } .cancel t) ∧
    (g.phase = .open →
      ∃ t, exec (.abortGrant grant) s = .next t ∧ t.link = u.link.served .ok ∧
        t.pillar.grant i = some { g with
          phase := .relock, cause := some .cancel, cancelPending := true, attempts := 1, timer := none } ∧
        (t.pillar.dock g.dock).state = .relocking ∧
        { cmd := .relock, dock := g.dock } ∈ (t.pillar.rail (railOf g.dock)).safety ∧
        t.pillar.records = u.pillar.records ∧ u.relocks i { g with cancelPending := true } .cancel t) ∧
    (g.phase = .relock → exec (.abortGrant grant) s = .next (u.served (.refuse .badState)))

/-- R86, R185, R186, R59: SUSPEND and RESUME; SERVICE_ENTER with no active grant; SERVICE_LEAVE, which applies the fitted set:
the messages of a newly unfitted head leave their queues, and one in the channel runs its course there, its outcome not to
be delivered (the model's reading of R59 against R141, entry 28). -/
def Obligations.SuspendAndServiceState : Prop :=
  (∀ (s u : State), u = s.settle → u.link.port ≠ .working →
    exec .suspend s = .next ({ u with pillar := { u.pillar with suspended := true } }.served .ok) ∧
    exec .resume s = .next ({ u with pillar := { u.pillar with suspended := false } }.served .ok)) ∧
  ((∀ (s u : State), u = s.settle → u.link.port ≠ .working → (∀ i, u.pillar.grant i = none) →
    exec .serviceEnter s = .next ({ u with store := { u.store with inService := true } }.served .ok)) ∧
  (∀ (s u : State), u = s.settle → u.link.port ≠ .working → u.store.inService = true →
    u.pillar.railA.training = none → u.pillar.railB.training = none →
    (∀ i g, u.pillar.grant i = some g → u.store.work.fitted.getLsbD g.dock.val = true) →
    ∃ t, exec .serviceLeave s = .next t ∧ t.link = u.link.served .ok ∧ t.store.inService = false ∧
      t.pillar.fitted = u.store.work.fitted ∧ t.pillar.records = u.pillar.records ∧
      t.pillar.grants = u.pillar.grants ∧
      (∀ r src, (t.pillar.rail r).queue src = ((u.pillar.rail r).queue src).filter (fun m =>
        decide (railOf m.dock ≠ r ∨ u.pillar.isFitted m.dock = false ∨
          u.store.work.fitted.getLsbD m.dock.val = true))) ∧
      (∀ r m src, (u.pillar.rail r).chan.msg = some (m, src) → railOf m.dock = r →
        (u.pillar.isFitted m.dock = true → u.store.work.fitted.getLsbD m.dock.val = false →
          (t.pillar.rail r).chan = { (u.pillar.rail r).chan with orphan := true }) ∧
        (u.pillar.isFitted m.dock = false ∨ u.store.work.fitted.getLsbD m.dock.val = true →
          (t.pillar.rail r).chan = (u.pillar.rail r).chan)) ∧
      ∀ d, (u.pillar.isFitted d = true → u.store.work.fitted.getLsbD d.val = false →
          t.pillar.dock d = Dock.fresh .unfitted ∧ d ∉ t.pillar.order ∧ (t.pillar.head d).confirmed = none ∧
          (t.pillar.head d).missed = 0 ∧ (t.pillar.filter d).initialised = false) ∧
        (u.pillar.isFitted d = false → u.store.work.fitted.getLsbD d.val = true →
          t.pillar.dock d = Dock.fresh .silent) ∧
        (u.pillar.isFitted d = u.store.work.fitted.getLsbD d.val →
          t.pillar.dock d = u.pillar.dock d ∧ t.pillar.head d = u.pillar.head d)))

/-- R50, R53, R54, R56, R58, R83, R85, R175: the refusals of the requests that name a dock or a grant. Each changes nothing but
the port. -/
def Obligations.DockAndGrantRequestsAreRefused : Prop :=
  (∀ (s u : State) (dock id condition pattern : Byte) (expiry : Word), u = s.settle → u.link.port ≠ .working →
    (dock.toNat = 0 ∨ 48 < dock.toNat) →
    ∀ c ∈ [Instr.readDock dock, .holdSetReserve dock id expiry, .holdSetService dock, .holdClear dock,
        .bikeCondition dock condition, .lampDirect dock pattern, .lampAuto dock, .clearFault dock, .staffRelease dock],
      exec c s = .next (u.served (.refuse .badValue))) ∧
  (∀ (s u : State) (dock id condition pattern : Byte) (expiry : Word) (d : DockNo), u = s.settle →
    u.link.port ≠ .working → dockOperand dock = some d →
    (id = 0#8 → exec (.holdSetReserve dock id expiry) s = .next (u.served (.refuse .badValue))) ∧
    (id ≠ 0#8 →
      ((u.pillar.dock d).state ≠ .docked ∨ (u.pillar.dock d).hold ≠ none ∨ u.clock.labelled = false ∨
        expiry.toNat ≤ u.clock.sec) →
      exec (.holdSetReserve dock id expiry) s = .next (u.served (.refuse .badState))) ∧
    (id ≠ 0#8 → (u.pillar.dock d).state = .docked → (u.pillar.dock d).hold = none → u.clock.labelled = true →
      u.clock.sec < expiry.toNat → (∃ e x, (u.pillar.dock e).hold = some (.reserve id x)) →
      exec (.holdSetReserve dock id expiry) s = .next (u.served (.refuse .badValue))) ∧
    ((u.pillar.dock d).state = .unfitted →
      exec (.holdSetService dock) s = .next (u.served (.refuse .badState)) ∧
      exec (.lampAuto dock) s = .next (u.served (.refuse .badState)) ∧
      (pattern.toNat ≤ 3 → exec (.lampDirect dock pattern) s = .next (u.served (.refuse .badState)))) ∧
    ((u.pillar.dock d).hold = none → exec (.holdClear dock) s = .next (u.served (.refuse .notFound))) ∧
    (condition ≠ 1#8 → condition ≠ 2#8 →
      exec (.bikeCondition dock condition) s = .next (u.served (.refuse .badValue))) ∧
    (condition = 1#8 ∨ condition = 2#8 → (u.pillar.dock d).bike = none →
      exec (.bikeCondition dock condition) s = .next (u.served (.refuse .notFound))) ∧
    (3 < pattern.toNat → exec (.lampDirect dock pattern) s = .next (u.served (.refuse .badValue))) ∧
    ((u.pillar.dock d).state ≠ .fault → exec (.clearFault dock) s = .next (u.served (.refuse .badState))) ∧
    ((u.pillar.dock d).state ≠ .docked → exec (.staffRelease dock) s = .next (u.served (.refuse .badState))) ∧
    ((u.pillar.dock d).state = .docked →
      ((∀ i, (u.pillar.grant i).isSome = true) ∨
        64 ≤ u.pillar.records.length + u.pillar.active + u.pillar.owedCount) →
      exec (.staffRelease dock) s = .next (u.served (.refuse .busy)))) ∧
  (∀ (s u : State) (grant : Byte), u = s.settle → u.link.port ≠ .working →
    (grant = 0#8 → exec (.abortGrant grant) s = .next (u.served (.refuse .badValue))) ∧
    (grant ≠ 0#8 → (∀ i g, u.pillar.grant i = some g → g.id ≠ grant.toNat) →
      exec (.abortGrant grant) s = .next (u.served (.refuse .notFound))) ∧
    (∀ i g, grant ≠ 0#8 → u.pillar.findGrant grant.toNat = some (i, g) → g.phase = .relock →
      exec (.abortGrant grant) s = .next (u.served (.refuse .badState))))

/-! ## Settings, store and service state -/

/-- R181, R116: SETTING_WRITE of a setting other than SAMPLE_DELAY and the three that act on the filter records. R181, R117,
R151: SETTING_WRITE of a SAMPLE_DELAY changes the delay of one head, clamped to its range, and a write to BUCKET,
LOW_RESET_SCANS or DEBOUNCE empties every count of an initialised record at or above the new bound. A count that the written
setting does not name is as it was when it lies below its own bound, as it does after every update (R113 to R115). -/
def Obligations.SettingWritesTakeEffect : Prop :=
  (∀ (s u : State) (setting dock : Byte) (value : BitVec 48) (name : SettingName), u = s.settle →
    u.link.port ≠ .working → u.store.busy = false → settingOperand setting = some name → name ≠ .sampleDelay →
    name ≠ .bucket → name ≠ .lowResetScans → name ≠ .debounce →
    ((name = .stationGroup ∨ name = .fitted) → u.store.inService = true) →
    ((name = .bikeThreshold ∨ name = .hysteresis ∨ name = .noiseThreshold) →
      (u.store.work.write name (max name.range.1 (min name.range.2 value.toNat))).thresholdsOk = true) →
    ∃ t v, exec (.settingWrite setting dock value) s = .next t ∧ v = max name.range.1 (min name.range.2 value.toNat) ∧
      t = { u with store := { u.store with work := u.store.work.write name v } }.served
        { code := if v = value.toNat then .ok else .okClamped, body := beBytes 6 v } ∧
      t.store.work.read 0 name = v) ∧
  (∀ (s u : State) (value : BitVec 48), u = s.settle → u.link.port ≠ .working → u.store.busy = false →
    (∀ (dock : Byte) (d : DockNo), dockOperand dock = some d → u.store.inService = true →
      exec (.settingWrite 3#8 dock value) s = .next ({ u with
        pillar := u.pillar.setHead d { u.pillar.head d with delay := min 31 value.toNat } }.served
          { code := if value.toNat ≤ 31 then .ok else .okClamped, body := beBytes 6 (min 31 value.toNat) })) ∧
    (∀ (dock setting : Byte) (name : SettingName) (v : Nat),
      (setting = 8#8 ∧ name = .lowResetScans ∨ setting = 9#8 ∧ name = .bucket ∨ setting = 10#8 ∧ name = .debounce) →
      v = max name.range.1 (min name.range.2 value.toNat) →
      ∃ t, exec (.settingWrite setting dock value) s = .next t ∧ t.store.work = u.store.work.write name v ∧
        t.store.work.read 0 name = v ∧
        t.link = u.link.served { code := if v = value.toNat then .ok else .okClamped, body := beBytes 6 v } ∧
        t.clock = u.clock ∧ t.tcu = u.tcu ∧ t.pillar = { u.pillar with filters := t.pillar.filters } ∧
        ∀ d, ((u.pillar.filter d).initialised = false → t.pillar.filter d = u.pillar.filter d) ∧
          ((u.pillar.filter d).initialised = true →
            (t.pillar.filter d).initialised = true ∧ (t.pillar.filter d).base = (u.pillar.filter d).base ∧
            (t.pillar.filter d).present = (u.pillar.filter d).present ∧
            (t.pillar.filter d).lastRaw = (u.pillar.filter d).lastRaw ∧
            (name ≠ .bucket → (u.pillar.filter d).bucket < u.store.work.bucket →
              (t.pillar.filter d).bucket = (u.pillar.filter d).bucket) ∧
            (name ≠ .lowResetScans → (u.pillar.filter d).lowRun < u.store.work.lowResetScans →
              (t.pillar.filter d).lowRun = (u.pillar.filter d).lowRun) ∧
            (name ≠ .debounce → (u.pillar.filter d).onRun < u.store.work.debounce →
              (t.pillar.filter d).onRun = (u.pillar.filter d).onRun) ∧
            (name ≠ .debounce → (u.pillar.filter d).offRun < u.store.work.debounce →
              (t.pillar.filter d).offRun = (u.pillar.filter d).offRun) ∧
            (name = .bucket → (t.pillar.filter d).bucket =
              (if v ≤ (u.pillar.filter d).bucket then 0 else (u.pillar.filter d).bucket)) ∧
            (name = .lowResetScans → (t.pillar.filter d).lowRun =
              (if v ≤ (u.pillar.filter d).lowRun then 0 else (u.pillar.filter d).lowRun)) ∧
            (name = .debounce →
              (t.pillar.filter d).onRun = (if v ≤ (u.pillar.filter d).onRun then 0 else (u.pillar.filter d).onRun) ∧
              (t.pillar.filter d).offRun =
                (if v ≤ (u.pillar.filter d).offRun then 0 else (u.pillar.filter d).offRun)))))

/-- R182, R189: STORE_SETTINGS captures the working values under a good check word and spoils the image's; STORE_COMPLETE
puts the captured values into the image. R183, R39: RESTORE_FACTORY puts back the factory values, empties the key slots and
sets T to nominal, and R117: every count of an initialised filter record at or above its factory bound becomes 0; the image,
the label and the fitted set in force stay. -/
def Obligations.StoreAndRestoreActOnTheSettings : Prop :=
  (∀ (s u : State), u = s.settle → u.link.port ≠ .working → u.store.busy = false →
    ∃ t run, exec .storeSettings s = .next t ∧ t.link = u.link.served .ok ∧ t.store.busy = true ∧
      t.store.store = some run ∧ run.ticks = 0 ∧ run.captured.settings = u.store.work ∧
      (∀ d : DockNo, run.captured.delays[d] = (u.pillar.head d).delay) ∧ run.captured.keyA = u.tcu.keyA ∧
      run.captured.keyB = u.tcu.keyB ∧ run.captured.trim = u.clock.trim ∧ run.captured.good = true ∧
      t.store.image.good = false ∧ t.store.work = u.store.work ∧ t.pillar = u.pillar ∧ t.clock = u.clock ∧
      t.tcu = u.tcu) ∧
  (∀ (s u : State) (run : StoreRun), u = s.settle → u.store.store = some run →
    exec .storeComplete s = .next { u with
      store := { u.store with image := run.captured, busy := false, store := none, fromFactory := false } }) ∧
  (∀ (s u : State), u = s.settle → u.link.port ≠ .working → u.tcu.check = none → u.store.busy = false →
    ∃ t, exec .restoreFactory s = .next t ∧ t.link = u.link.served .ok ∧ t.store.work = Settings.factory ∧
      t.store.image = u.store.image ∧ t.store.fromFactory = u.store.fromFactory ∧
      t.store.inService = u.store.inService ∧ t.tcu = { u.tcu with keyA := none, keyB := none } ∧
      t.clock = { u.clock with trim := 1048576 } ∧ (∀ d, (t.pillar.head d).delay = 8) ∧
      (∀ d, (t.pillar.head d).confirmed = (u.pillar.head d).confirmed) ∧ t.pillar.fitted = u.pillar.fitted ∧
      t.pillar.docks = u.pillar.docks ∧ t.pillar.grants = u.pillar.grants ∧
      ∀ d f, f = u.pillar.filter d →
        (f.initialised = false → t.pillar.filter d = f) ∧
        (f.initialised = true → t.pillar.filter d = { f with
          bucket := if 100 ≤ f.bucket then 0 else f.bucket
          lowRun := if 20 ≤ f.lowRun then 0 else f.lowRun
          onRun := if 3 ≤ f.onRun then 0 else f.onRun
          offRun := if 3 ≤ f.offRun then 0 else f.offRun }))

/-- R152, R153: RAIL_TRAIN starts with the lowest fitted head of the rail; a silent head is skipped, and a stray TRAIN_OFF that
waits for a head taken is withdrawn (R158). That a skipped head ends its training as any other does is the model's reading of
R156 (entry 24). R153, R156: the confirm deadline of a TRAIN_ON and of a TRAIN_OFF, to the third attempt. R155: the end of
the sweep. -/
def Obligations.TrainingStartsAndMovesItsStep : Prop :=
  (∀ (s u : State) (rail : Byte) (r : RailId) (d : DockNo), u = s.settle → u.link.port ≠ .working →
    railOperand rail = some r → u.store.inService = true → (u.pillar.rail r).training = none →
    (u.pillar.fittedDocks r).head? = some d → (u.pillar.head d).missed < 8 →
    u.pillar.waits d Cmd.isStray = false →
    exec (.railTrain rail) s = .next ({ u with
      pillar := u.pillar.modRail r (fun x => { x with
        training := some {
          dock := d, step := .on, attempt := 1, deadline := none, scans := 0, firstGood := false, good := 0#32
          result := .none }
        upkeep := x.upkeep ++ [({ cmd := .trainOn, dock := d } : Msg)] }) }.served .ok)) ∧
  (∀ (s u : State) (rail : Byte) (r : RailId), u = s.settle → u.link.port ≠ .working →
    railOperand rail = some r → u.store.inService = true → (u.pillar.rail r).training = none →
    ∃ t, exec (.railTrain rail) s = .next t ∧ t.link = u.link.served .ok ∧
      u.pillar.trainingTakes r ((railDocks r).filter u.pillar.isFitted) t.pillar ∧
      t = { u with link := t.link, pillar := { u.pillar with
        heads := t.pillar.heads, filters := t.pillar.filters, railA := t.pillar.railA, railB := t.pillar.railB } } ∧
      (∀ d, d ∉ (railDocks r).filter u.pillar.isFitted →
        t.pillar.head d = u.pillar.head d ∧ t.pillar.filter d = u.pillar.filter d) ∧
      (∀ o, o ≠ r → t.pillar.rail o = u.pillar.rail o) ∧
      { t.pillar.rail r with training := none, safety := [], station := [], rider := [], upkeep := [] } =
        { u.pillar.rail r with training := none, safety := [], station := [], rider := [], upkeep := [] } ∧
      (∀ src, ∀ m ∈ (u.pillar.rail r).queue src, m.cmd.isStray = false → m ∈ (t.pillar.rail r).queue src) ∧
      (∀ src, ∀ m ∈ (t.pillar.rail r).queue src,
        m ∈ (u.pillar.rail r).queue src ∨ m.cmd = .trainOn ∨ m.cmd = .trainOff true)) ∧
  (∀ (s : State) (r : RailId) (tr : Training), (s.pillar.rail r).training = some tr → railOf tr.dock = r →
    (tr.step = .on → tr.deadline = some 0 → tr.attempt < 3 →
      ∃ t, exec (.trainDeadlineExpiry r) s = .next t ∧
        (t.pillar.rail r).training = some { tr with attempt := tr.attempt + 1, deadline := none } ∧
        (t.pillar.rail r).upkeep.head? = some { cmd := .trainOn, dock := tr.dock } ∧
        t.pillar.heads = s.pillar.heads) ∧
    (tr.step = .on → tr.deadline = some 0 → ¬ tr.attempt < 3 →
      ∃ t, exec (.trainDeadlineExpiry r) s = .next t ∧
        (t.pillar.rail r).training =
          some { tr with step := .off, attempt := 1, deadline := none, result := .failed } ∧
        (t.pillar.rail r).upkeep = (s.pillar.rail r).upkeep ++ [{ cmd := .trainOff false, dock := tr.dock }] ∧
        t.pillar.heads = s.pillar.heads) ∧
    (tr.step = .off → tr.deadline = some 0 → tr.attempt < 3 →
      ∃ t, exec (.trainDeadlineExpiry r) s = .next t ∧
        (t.pillar.rail r).training = some { tr with attempt := tr.attempt + 1, deadline := none } ∧
        (t.pillar.rail r).upkeep = { cmd := .trainOff false, dock := tr.dock } :: (s.pillar.rail r).upkeep ∧
        t.pillar.heads = s.pillar.heads) ∧
    (tr.step = .off → tr.deadline = some 0 → ¬ tr.attempt < 3 →
      ∃ t, exec (.trainDeadlineExpiry r) s = .next t ∧ s.pillar.trainingMoves r tr.dock .failed t.pillar ∧
        t.pillar.docks = s.pillar.docks ∧ t.pillar.grants = s.pillar.grants) ∧
    (tr.step = .sweep → 64 ≤ tr.scans →
      (tr.good = 0#32 →
        ∃ t, exec (.sweepEnd r) s = .next t ∧
          (t.pillar.rail r).training =
            some { tr with step := .off, attempt := 1, deadline := none, result := .failed } ∧
          t.pillar.heads = s.pillar.heads) ∧
      (∀ lo hi : Nat, lo ≤ hi → hi < 32 → (∀ n, lo ≤ n → n ≤ hi → tr.good.getLsbD n = true) →
        (∀ n, n < lo → tr.good.getLsbD n = false) → tr.good.getLsbD (hi + 1) = false →
        ∃ t, exec (.sweepEnd r) s = .next t ∧
          (t.pillar.rail r).training =
            some { tr with step := .off, attempt := 1, deadline := none, result := .passed } ∧
          (t.pillar.head tr.dock).delay = (lo + hi) / 2 ∧
          { cmd := .trainOff false, dock := tr.dock } ∈ (t.pillar.rail r).upkeep)))

/-- R153, R156: the outcome of the TRAIN_ON or TRAIN_OFF of the head under training, and a change event that confirms its step
while the confirm deadline runs. R158: the outcome of a stray TRAIN_OFF, and the TRAINING code that places one. That a head
with no confirmed code does not confirm its TRAIN_OFF, and that a skipped head ends its training as any other does, are the
model's readings of R156 (entries 19 and 24). -/
def Obligations.TrainingMessagesAreDelivered : Prop :=
  (∀ (s : State) (r : RailId) (d : DockNo) (k : Training) (cmd : Cmd) (source : Source) (o : ChanOutcome),
    (s.pillar.rail r).chan.state = .idle → (s.pillar.rail r).chan.msg = some ({ cmd := cmd, dock := d }, source) →
    (s.pillar.rail r).chan.outcome = some o → (s.pillar.rail r).chan.orphan = false →
    (s.pillar.rail r).training = some k → k.dock = d → railOf d = r →
    (k.step = .on ∧ cmd = .trainOn ∨ k.step = .off ∧ cmd = .trainOff false) →
    ∃ t, exec (.channelOutcome r) s = .next t ∧ (t.pillar.rail r).chan = Channel.idle ∧
      (t.pillar.rail r).stationLow = decide (source = .station) ∧
      (t.pillar.rail r).riderLow = decide (source = .rider) ∧ t.pillar.docks = s.pillar.docks ∧
      t.pillar.grants = s.pillar.grants ∧ t.pillar.records = s.pillar.records ∧
      (k.step = .on → (s.pillar.head d).confirmed = some .training →
        (t.pillar.rail r).training =
          some { k with step := .sweep, deadline := none, scans := 0, firstGood := false, good := 0#32 } ∧
        (t.pillar.rail r).upkeep = (s.pillar.rail r).upkeep ∧ t.pillar.heads = s.pillar.heads) ∧
      (∀ code, k.step = .off → (s.pillar.head d).confirmed = some code → code ≠ .training →
        s.pillar.trainingMoves r d k.result t.pillar) ∧
      ((k.step = .on ∧ (s.pillar.head d).confirmed ≠ some .training ∨
          k.step = .off ∧ ((s.pillar.head d).confirmed = none ∨ (s.pillar.head d).confirmed = some .training)) →
        (o = .done →
          (t.pillar.rail r).training = some { k with deadline := some s.store.work.confirmTimeout } ∧
          (t.pillar.rail r).upkeep = (s.pillar.rail r).upkeep ∧ t.pillar.heads = s.pillar.heads) ∧
        (o ≠ .done → k.attempt < 3 →
          (t.pillar.rail r).training = some { k with attempt := k.attempt + 1, deadline := none } ∧
          (t.pillar.rail r).upkeep = { cmd := cmd, dock := d } :: (s.pillar.rail r).upkeep ∧
          t.pillar.heads = s.pillar.heads) ∧
        (o ≠ .done → ¬ k.attempt < 3 → k.step = .on →
          (t.pillar.rail r).training =
            some { k with step := .off, attempt := 1, deadline := none, result := .failed } ∧
          (t.pillar.rail r).upkeep = (s.pillar.rail r).upkeep ++ [{ cmd := .trainOff false, dock := d }] ∧
          t.pillar.heads = s.pillar.heads) ∧
        (o ≠ .done → ¬ k.attempt < 3 → k.step = .off → s.pillar.trainingMoves r d .failed t.pillar))) ∧
  (∀ (s : State) (d : DockNo) (k : Training) (code : Code), (s.pillar.rail (railOf d)).codeDue = some (d, false) →
    (s.pillar.head d).confirmed = some code → (s.pillar.rail (railOf d)).training = some k → k.dock = d →
    ∃ t, exec (.changeEvent d) s = .next t ∧
      (k.deadline.isSome = true → k.step = .on → code = .training →
        (t.pillar.rail (railOf d)).training =
          some { k with step := .sweep, deadline := none, scans := 0, firstGood := false, good := 0#32 } ∧
        t.pillar.heads = s.pillar.heads ∧ t.pillar.filters = s.pillar.filters) ∧
      (k.deadline.isSome = true → k.step = .off → code ≠ .training →
        s.pillar.trainingMoves (railOf d) d k.result t.pillar) ∧
      ((k.deadline = none ∨ k.step = .sweep ∨ (k.step = .on ∧ code ≠ .training) ∨
          (k.step = .off ∧ code = .training)) →
        (t.pillar.rail (railOf d)).training = some k ∧ t.pillar.heads = s.pillar.heads ∧
        t.pillar.filters = s.pillar.filters)) ∧
  (∀ (s : State) (r : RailId) (d : DockNo) (source : Source) (o : ChanOutcome),
    (s.pillar.rail r).chan.state = .idle →
    (s.pillar.rail r).chan.msg = some ({ cmd := .trainOff true, dock := d }, source) →
    (s.pillar.rail r).chan.outcome = some o → (s.pillar.rail r).chan.orphan = false → railOf d = r →
    ∃ t, exec (.channelOutcome r) s = .next t ∧ t.pillar.docks = s.pillar.docks ∧
      t.pillar.grants = s.pillar.grants ∧ (t.pillar.rail r).training = (s.pillar.rail r).training ∧
      (∀ e, e ≠ d → t.pillar.head e = s.pillar.head e) ∧
      ((s.pillar.head d).confirmed = some .training → s.pillar.underTraining d = false →
        t.pillar.head d = { s.pillar.head d with stray := true } ∧
        (t.pillar.rail r).upkeep = (s.pillar.rail r).upkeep ++ [{ cmd := .trainOff true, dock := d }]) ∧
      ((s.pillar.head d).confirmed ≠ some .training ∨ s.pillar.underTraining d = true →
        t.pillar.head d = { s.pillar.head d with stray := false } ∧
        (t.pillar.rail r).upkeep = (s.pillar.rail r).upkeep)) ∧
  (∀ (s : State) (d : DockNo) (c : Instr),
    ((s.pillar.rail (railOf d)).codeDue = some (d, true) ∧ c = .firstCodeEvent d ∨
      (s.pillar.rail (railOf d)).codeDue = some (d, false) ∧ c = .changeEvent d) →
    (s.pillar.head d).confirmed = some .training → s.pillar.underTraining d = false →
    ∃ t, exec c s = .next t ∧ t.pillar.docks = s.pillar.docks ∧ t.pillar.grants = s.pillar.grants ∧
      t.pillar.records = s.pillar.records ∧ t.pillar.head d = { s.pillar.head d with stray := true } ∧
      (∀ e, e ≠ d → t.pillar.head e = s.pillar.head e) ∧
      ((s.pillar.head d).stray = false → (t.pillar.rail (railOf d)).upkeep =
        (s.pillar.rail (railOf d)).upkeep ++ [{ cmd := .trainOff true, dock := d }]) ∧
      ((s.pillar.head d).stray = true →
        (t.pillar.rail (railOf d)).upkeep = (s.pillar.rail (railOf d)).upkeep))

/-- R32, R116, R152, R178, R181 to R183, R185, R186: the refusals of the requests that name a setting, a rail, a count or
nothing. Each changes nothing but the port; SERVICE_ENTER in service state is OK and changes nothing else either. -/
def Obligations.SettingsAndServiceRequestsAreRefused : Prop :=
  (∀ (s u : State) (setting dock : Byte) (value : BitVec 48), u = s.settle → u.link.port ≠ .working →
    (setting.toNat = 0 ∨ 19 < setting.toNat ∨ (setting = 3#8 ∧ (dock.toNat = 0 ∨ 48 < dock.toNat)) →
      exec (.settingWrite setting dock value) s = .next (u.served (.refuse .badValue)) ∧
      exec (.settingRead setting dock) s = .next (u.served (.refuse .badValue))) ∧
    (1 ≤ setting.toNat → setting.toNat ≤ 19 → (setting = 3#8 → 1 ≤ dock.toNat ∧ dock.toNat ≤ 48) →
      (u.store.busy = true →
        exec (.settingWrite setting dock value) s = .next (u.served (.refuse .busy))) ∧
      (u.store.busy = false → setting.toNat ≤ 3 → u.store.inService = false →
        exec (.settingWrite setting dock value) s = .next (u.served (.refuse .badState))) ∧
      (∀ name w, u.store.busy = false → settingOperand setting = some name →
        (name = .bikeThreshold ∨ name = .hysteresis ∨ name = .noiseThreshold) →
        w = u.store.work.write name (max name.range.1 (min name.range.2 value.toNat)) →
        ¬ w.noiseThreshold + w.hysteresis + 5 < w.bikeThreshold →
        exec (.settingWrite setting dock value) s = .next (u.served (.refuse .badValue))))) ∧
  (∀ (s u : State), u = s.settle → u.link.port ≠ .working →
    (∀ count : Byte, (count.toNat = 0 ∨ 8 < count.toNat) →
      exec (.readRecords count) s = .next (u.served (.refuse .badValue))) ∧
    (∀ (seconds : Word) (force : Byte), u.tcu.check = none → force ≠ 0#8 → force ≠ 1#8 →
      exec (.setTimeImmediate seconds force) s = .next (u.served (.refuse .badValue)) ∧
      exec (.setTimeAligned seconds force) s = .next (u.served (.refuse .badValue))) ∧
    (∀ rail : Byte, rail ≠ 1#8 → rail ≠ 2#8 → exec (.railTrain rail) s = .next (u.served (.refuse .badValue))) ∧
    (∀ (rail : Byte) (r : RailId), railOperand rail = some r →
      (u.store.inService = false ∨ (u.pillar.rail r).training.isSome = true) →
      exec (.railTrain rail) s = .next (u.served (.refuse .badState))) ∧
    (u.store.busy = true →
      exec .storeSettings s = .next (u.served (.refuse .busy)) ∧
      (u.tcu.check = none → exec .restoreFactory s = .next (u.served (.refuse .busy)))) ∧
    (u.store.inService = true → exec .serviceEnter s = .next (u.served .ok)) ∧
    (u.store.inService = false → (∃ i g, u.pillar.grant i = some g) →
      exec .serviceEnter s = .next (u.served (.refuse .badState))) ∧
    (u.store.inService = false ∨ u.pillar.railA.training.isSome = true ∨ u.pillar.railB.training.isSome = true ∨
        (∃ i g, u.pillar.grant i = some g ∧ u.store.work.fitted.getLsbD g.dock.val = false) →
      exec .serviceLeave s = .next (u.served (.refuse .badState))))

/-! ## The Rider Link Port -/

/-- R163 to R166, R81: an accepted PRESENT, CANCEL or QUERY, and the end of a transmission. As a row of the table each is the
step in which the frame's last byte is accepted, in whatever state the receiver is, and leaves it in HUNT (the model's
choice, entry 13). -/
def Obligations.RiderFramesAreHandedOn : Prop :=
  ∀ (s u : State), u = s.settle →
    (∀ ref token, u.rider.inbox.length < 4 →
      exec (.present ref token) s = .next { u with
        rider := { u.rider.hunt with inbox := u.rider.inbox ++ [{ ref := ref, token := token }] } }) ∧
    (∀ ref token, 4 ≤ u.rider.inbox.length →
      exec (.present ref token) s = .next { u with
        rider := u.rider.hunt
        pillar := u.pillar.event u.ctx (fun p => { p with out := p.out ++ [refusal ref .busy] }) }) ∧
    (∀ ref before pres after, u.rider.inbox = before ++ pres :: after → pres.ref = ref →
      (∀ e ∈ before, e.ref ≠ ref) →
      exec (.cancel ref) s = .next { u with
        rider := { u.rider.hunt with inbox := before ++ after }
        pillar := u.pillar.event u.ctx (fun p => { p with out := p.out ++ [refusal ref .cancelled] }) }) ∧
    (∀ ref k, (∀ e ∈ u.rider.inbox, e.ref ≠ ref) → u.tcu.check = some k → k.pres.ref = ref →
      exec (.cancel ref) s = .next { u with
        rider := u.rider.hunt, tcu := { u.tcu with heldCancel := some ref } }) ∧
    (∀ ref, (∀ e ∈ u.rider.inbox, e.ref ≠ ref) → (∀ k, u.tcu.check = some k → k.pres.ref ≠ ref) →
      exec (.cancel ref) s = .next { u with
        rider := u.rider.hunt, pillar := u.pillar.event u.ctx (Pillar.cancelRef u.ctx ref) } ∧
      ((∀ i g x, u.pillar.grant i = some g → g.rider = some x → x.ref = ref →
          g.phase = .open ∨ g.phase = .relock ∨ (g.phase = .sending ∧ g.cancelPending = true)) →
        exec (.cancel ref) s = .next { u with
          rider := u.rider.hunt, pillar := u.pillar.event u.ctx (fun p => p) }) ∧
      (∀ i g, u.pillar.grantWithRef ref = some (i, g) → g.phase = .confirming →
        ∃ t, exec (.cancel ref) s = .next t ∧ u.relocks i { g with cancelPending := true } .cancel t) ∧
      (∀ i g, u.pillar.grantWithRef ref = some (i, g) → g.phase = .sending → g.cancelPending = false →
        ∃ t, exec (.cancel ref) s = .next t ∧ t.pillar.grant i = some { g with cancelPending := true } ∧
          (∀ j, j ≠ i → t.pillar.grant j = u.pillar.grant j) ∧ t.pillar.docks = u.pillar.docks ∧
          t.pillar.order = u.pillar.order ∧ t.pillar.records = u.pillar.records ∧
          t.pillar.spent = u.pillar.spent ∧ u.pillar.sends u.ctx u.pillar.out t.pillar ∧
          (∀ r, r ≠ railOf g.dock → t.pillar.rail r = u.pillar.rail r) ∧
          (∀ src, (t.pillar.rail (railOf g.dock)).queue src = (u.pillar.rail (railOf g.dock)).queue src) ∧
          (∀ source, (u.pillar.rail (railOf g.dock)).chan.msg =
              some ({ cmd := .release g.id, dock := g.dock }, source) →
            ((u.pillar.rail (railOf g.dock)).chan.outcome = none →
              (t.pillar.rail (railOf g.dock)).chan =
                { (u.pillar.rail (railOf g.dock)).chan with abort := .asked }) ∧
            ((u.pillar.rail (railOf g.dock)).chan.outcome.isSome = true →
              (t.pillar.rail (railOf g.dock)).chan = (u.pillar.rail (railOf g.dock)).chan)) ∧
          (∀ m source, (u.pillar.rail (railOf g.dock)).chan.msg = some (m, source) →
            m ≠ { cmd := .release g.id, dock := g.dock } →
            (t.pillar.rail (railOf g.dock)).chan = (u.pillar.rail (railOf g.dock)).chan)) ∧
      (∀ i g, u.pillar.grantWithRef ref = some (i, g) → g.phase = .queued →
        ∃ t, exec (.cancel ref) s = .next t ∧ u.grantEnded i g .cancelled .beforeSend [] t ∧
          t.pillar.dock g.dock = (u.pillar.dock g.dock).keptInPlace ∧ t.pillar.order = u.pillar.order ∧
          ∀ e, e ≠ g.dock → t.pillar.dock e = u.pillar.dock e)) ∧
    (OutFrame.availability ∉ u.pillar.out →
      exec .query s = .next { u with
        rider := u.rider.hunt
        pillar := u.pillar.event u.ctx (fun p => { p with out := p.out ++ [.availability] }) }) ∧
    (OutFrame.availability ∈ u.pillar.out →
      exec .query s = .next { u with rider := u.rider.hunt, pillar := u.pillar.event u.ctx (fun p => p) }) ∧
    (∀ x, u.pillar.tx = some x →
      exec .transmitComplete s = .next { u with pillar := u.pillar.event u.ctx (fun p => { p with tx := none }) })

/-- R159 to R162: one byte of the rider link by the state of the receiver; the check byte that makes the sum 0 hands the frame
on as the row it stands for, and a frame of another kind or length is discarded; and the gap timeout. -/
def Obligations.ReceiverTakesBytes : Prop :=
  (∀ (s u : State) (b : Byte), u = s.settle →
    (u.rider.state = .hunt → b ≠ 0xA5#8 → exec (.riderByteReceived b true) s = .next u) ∧
    (u.rider.state = .hunt → b = 0xA5#8 →
      exec (.riderByteReceived b true) s = .next { u with rider := { u.rider.hunt with state := .length } }) ∧
    (u.rider.state = .length → b = 0xA5#8 →
      exec (.riderByteReceived b true) s = .next { u with rider := { u.rider with gap := 0 } }) ∧
    (u.rider.state = .length → 1 ≤ b.toNat → b.toNat ≤ 40 →
      exec (.riderByteReceived b true) s = .next { u with
        rider := { u.rider with state := .body, len := b.toNat, sum := b, bytes := [], gap := 0 } }) ∧
    (u.rider.state = .length → b ≠ 0xA5#8 → (b.toNat = 0 ∨ 40 < b.toNat) →
      exec (.riderByteReceived b true) s = .next { u with rider := u.rider.hunt }) ∧
    (u.rider.state = .body →
      exec (.riderByteReceived b true) s = .next { u with
        rider := { u.rider with
          state := if u.rider.len ≤ u.rider.bytes.length + 1 then .check else .body
          sum := u.rider.sum + b, bytes := u.rider.bytes ++ [b], gap := 0 } }) ∧
    (u.rider.state = .check → u.rider.sum + b ≠ 0#8 →
      exec (.riderByteReceived b true) s = .next { u with rider := u.rider.hunt }) ∧
    (u.rider.state = .check → u.rider.sum + b = 0#8 →
      (∀ ref token, u.rider.bytes = [0x01#8, ref] ++ tokenBytes token →
        exec (.riderByteReceived b true) s = exec (.present ref token) s) ∧
      (∀ ref, u.rider.bytes = [0x02#8, ref] → exec (.riderByteReceived b true) s = exec (.cancel ref) s) ∧
      (u.rider.bytes = [0x03#8] → exec (.riderByteReceived b true) s = exec .query s) ∧
      ((u.rider.bytes.head? = some 0x01#8 → u.rider.bytes.length ≠ 30) →
        (u.rider.bytes.head? = some 0x02#8 → u.rider.bytes.length ≠ 2) →
        (u.rider.bytes.head? = some 0x03#8 → u.rider.bytes.length ≠ 1) →
        exec (.riderByteReceived b true) s = .next { u with rider := u.rider.hunt })) ∧
    (u.rider.state ≠ .hunt → exec (.riderByteReceived b false) s = .next { u with rider := u.rider.hunt }) ∧
    (u.rider.state = .hunt → exec (.riderByteReceived b false) s = .next u)) ∧
  (∀ s : State, s.rider.state ≠ .hunt → 21 ≤ s.rider.gap →
    exec .riderGapTimeout s = .next { s with rider := s.rider.hunt })

/-! ## The Presence Filter -/

/-- R114, R115: the rise and the reset of the baseline of an initialised record. -/
def Obligations.BaselineFollowsTheCounts : Prop :=
  ∀ (s : State) (d : DockNo), (s.pillar.filter d).initialised = true →
    (s.store.work.bucket ≤ (s.pillar.filter d).bucket →
      ∃ t, exec (.baselineRise d) s = .next t ∧
        t.pillar.filter d =
          { s.pillar.filter d with base := min 65535 ((s.pillar.filter d).base + 1), bucket := 0 } ∧
        (∀ e, e ≠ d → t.pillar.filter e = s.pillar.filter e) ∧ t.pillar.docks = s.pillar.docks) ∧
    (∀ raw, s.store.work.lowResetScans ≤ (s.pillar.filter d).lowRun → (s.pillar.filter d).lastRaw = some raw →
      ∃ t, exec (.baselineReset d) s = .next t ∧
        t.pillar.filter d = { s.pillar.filter d with base := raw, lowRun := 0, bucket := 0 } ∧
        (∀ e, e ≠ d → t.pillar.filter e = s.pillar.filter e) ∧ t.pillar.docks = s.pillar.docks)

/-! ## The message channel and the arbiter -/

/-- R121, R123: MS_TICK judges the channel of each rail with the TAKE flag and the reply byte of its frame, read at the delay
that stood when the frame began (the model's reading, entry 6); an abort that the tick itself asks for, by a CANCEL held for
the check it ends, acts before the judgement (entry 21). R134 to R140, R143: the judgement by the channel state, while no
outcome has been decided and in ENDING and CLOSING; and a controller abort asked for between two frame ends, which is due
after this frame's judgement unless an outcome has been decided (the model's reading of R140, entry 21). -/
def Obligations.ChannelJudgesTake : Prop :=
  (∀ (s u : State) (a b x : Upstream) (r : RailId) (readable : Bool), u = s.settle.meetBounds →
    x = (match r with | .a => a | .b => b) →
    readable = ((u.pillar.rail r).chan.msg.isSome && x.channelWindow.getLsbD (u.pillar.rail r).chanDelay) →
    ∃ t, exec (.msTick a b) s = .next t ∧
      ((u.pillar.rail r).chan.abort ≠ .asked ∨ (s.settle.pillar.rail r).chan.abort = .asked →
        (t.pillar.rail r).chan = (u.pillar.rail r).chan.frameEnd u.store.work.channelTimeout
          (readable && x.take) (if readable then x.reply else 0#8)) ∧
      ((u.pillar.rail r).chan.abort = .asked → (s.settle.pillar.rail r).chan.abort ≠ .asked →
        (t.pillar.rail r).chan =
          (if (u.pillar.rail r).chan.outcome = none then
            { (u.pillar.rail r).chan with
              outcome := some .aborted, state := .ending, frames := 0, due := .none, abort := .none }
          else { (u.pillar.rail r).chan with abort := .none }))) ∧
  (∀ (ch : Channel) (m : Msg) (source : Source), ch.msg = some (m, source) →
    ch.pulls = (decide (m.cmd = .tagRead) && decide (4 ≤ ch.pos)) ∧ ch.length = (if m.cmd = .tagRead then 12 else 3)) ∧
  (∀ (limit : Nat) (take : Bool) (reply : Byte) (ch : Channel), ch.outcome = none → ch.abort = .none →
    ((ch.state = .offerFirst ∨ ch.state = .offer) → take = true → ch.offerTake = some false →
      (ch.pulls = false → reply ≠ ch.byte →
        ch.frameEnd limit take reply =
          { ch with outcome := some .echoError, state := .ending, frames := 0, due := .none }) ∧
      (ch.pulls = false → reply = ch.byte → ch.pos < ch.length →
        ch.frameEnd limit take reply =
          { ch with pos := ch.pos + 1, state := .gap, timeout := 0, offerTake := none, dropped := false }) ∧
      (ch.pulls = false → reply = ch.byte → ¬ ch.pos < ch.length →
        ch.frameEnd limit take reply =
          { ch with
            outcome := some .done, state := .ending, frames := 0, due := .none, timeout := 0, offerTake := none
            dropped := false }) ∧
      (ch.pulls = true → ch.pos < ch.length →
        ch.frameEnd limit take reply =
          { ch with
            pos := ch.pos + 1, state := .gap, timeout := 0, offerTake := none, dropped := false
            replies := ch.replies ++ [reply] }) ∧
      (ch.pulls = true → ¬ ch.pos < ch.length →
        ch.frameEnd limit take reply =
          { ch with
            outcome := some .done, state := .ending, frames := 0, due := .none, timeout := 0, offerTake := none
            dropped := false, replies := ch.replies ++ [reply] })) ∧
    (ch.state = .offerFirst → (take = false ∨ ch.offerTake ≠ some false) →
      ch.frameEnd limit take reply =
        { ch with
          timeout := ch.timeout + 1, offerTake := some take
          due := if limit ≤ ch.timeout + 1 then .timeout else .none }) ∧
    (ch.state = .gap →
      ch.frameEnd limit take reply = { ch with state := .offer, offerTake := none, dropped := !take }) ∧
    (ch.state = .offer → take = true → ch.offerTake ≠ some false →
      ch.frameEnd limit take reply =
        { ch with
          timeout := ch.timeout + 1, offerTake := some true, dropped := false
          due := if limit ≤ ch.timeout + 1 then .timeout else .none }) ∧
    (ch.state = .offer → take = false → ch.dropped = false →
      ch.frameEnd limit take reply =
        { ch with
          timeout := ch.timeout + 1, offerTake := some false, dropped := true
          due := if limit ≤ ch.timeout + 1 then .timeout else .none }) ∧
    (ch.state = .offer → take = false → ch.dropped = true →
      ch.frameEnd limit take reply =
        { ch with outcome := some .aborted, state := .ending, frames := 0, due := .none })) ∧
  (∀ (limit : Nat) (take : Bool) (reply : Byte) (ch : Channel), ch.abort = .none →
    (ch.state = .idle → ch.frameEnd limit take reply = ch) ∧
    (ch.state = .ending → ch.frames = 0 → ch.frameEnd limit take reply = { ch with frames := 1 }) ∧
    (ch.state = .ending → ch.frames ≠ 0 → ch.outcome = some .done →
      ch.frameEnd limit take reply = { ch with state := .closing, frames := 0, dropped := false }) ∧
    (ch.state = .ending → ch.frames ≠ 0 → ch.outcome ≠ some .done →
      ch.frameEnd limit take reply = { ch with state := .idle }) ∧
    (ch.state = .closing → take = false → ch.dropped = true →
      ch.frameEnd limit take reply = { ch with state := .idle }) ∧
    (ch.state = .closing → (take = true ∨ ch.dropped = false) →
      ch.frameEnd limit take reply =
        { ch with
          frames := ch.frames + 1, dropped := !take
          due := if limit ≤ ch.frames + 1 then .closing else .none })) ∧
  (∀ (limit : Nat) (take : Bool) (reply : Byte) (ch x : Channel), ch.abort = .asked →
    x = { ch with abort := .none }.frameEnd limit take reply →
    ch.frameEnd limit take reply = { x with abort := if x.outcome = none then .due else .none })

/-- R136, R138, R140: the three events that end a message in the channel early; an abort that is asked for and waits for its
frame end does not act before it (entry 21). -/
def Obligations.ChannelEventsEndTheMessage : Prop :=
  ∀ (s : State) (r : RailId),
    ((s.pillar.rail r).chan.due = .timeout →
      ∃ t, exec (.channelTimeout r) s = .next t ∧
        (t.pillar.rail r).chan =
          { (s.pillar.rail r).chan with outcome := some .timeout, state := .ending, frames := 0, due := .none } ∧
        t.pillar.docks = s.pillar.docks ∧ t.pillar.grants = s.pillar.grants) ∧
    ((s.pillar.rail r).chan.due = .closing →
      ∃ t, exec (.closingTimeout r) s = .next t ∧ (t.pillar.rail r).quiet = 0 ∧
        (t.pillar.rail r).chan = { (s.pillar.rail r).chan with state := .idle, due := .none } ∧
        t.pillar.docks = s.pillar.docks ∧ t.pillar.grants = s.pillar.grants) ∧
    ((s.pillar.rail r).chan.abort = .due → (s.pillar.rail r).chan.due ≠ .timeout →
      (s.pillar.rail r).chan.outcome = none →
      ∃ t, exec (.controllerAbort r) s = .next t ∧
        (t.pillar.rail r).chan =
          { (s.pillar.rail r).chan with
            outcome := some .aborted, state := .ending, frames := 0, due := .none, abort := .none } ∧
        t.pillar.docks = s.pillar.docks ∧ t.pillar.grants = s.pillar.grants) ∧
    ((s.pillar.rail r).chan.abort = .asked → exec (.controllerAbort r) s = .next s)

/-- R69, R71, R75, R82, R141, R149: the outcome of a RELEASE, for a grant in SENDING. R45, R78, R79, R80: the outcome of a
RELOCK, for a grant in RELOCK and for a relock without a grant, with its end at a rest code and at its third failure. R91,
R140, R141: an outcome whose owner has withdrawn its interest, and that of a LAMP, which changes nothing. -/
def Obligations.ChannelOutcomesAreDelivered : Prop :=
  (∀ (s : State) (r : RailId) (d : DockNo) (id : Nat) (source : Source) (i : Fin 8) (g : Grant) (o : ChanOutcome),
    (s.pillar.rail r).chan.state = .idle → (s.pillar.rail r).chan.msg = some ({ cmd := .release id, dock := d }, source) →
    (s.pillar.rail r).chan.outcome = some o → (s.pillar.rail r).chan.orphan = false →
    s.pillar.findGrant id = some (i, g) → g.phase = .sending → g.dock = d →
    ∃ t, exec (.channelOutcome r) s = .next t ∧ (t.pillar.rail r).chan = Channel.idle ∧
      (t.pillar.rail r).stationLow = decide (source = .station) ∧
      (t.pillar.rail r).riderLow = decide (source = .rider) ∧ (∀ j, j ≠ i → t.pillar.grant j = s.pillar.grant j) ∧
      (g.cancelPending = true → s.relocks i g .cancel t) ∧
      (g.cancelPending = false → o = .done →
        t.pillar.grant i = some { g with phase := .confirming, timer := some s.store.work.confirmTimeout } ∧
        t.pillar.docks = s.pillar.docks ∧ t.pillar.records = s.pillar.records) ∧
      (g.cancelPending = false → o ≠ .done → g.attempts < 3 →
        t.pillar.grant i = some { g with attempts := g.attempts + 1, phase := .queued, timer := none } ∧
        t.pillar.docks = s.pillar.docks ∧ t.pillar.records = s.pillar.records ∧
        ((t.pillar.rail (railOf d)).queue (if g.rider.isSome then .rider else .station)).head? =
          some { cmd := .release id, dock := d }) ∧
      (g.cancelPending = false → o ≠ .done → ¬ g.attempts < 3 → (s.pillar.dock d).state ≠ .docked →
        s.releaseGivenUp i g t)) ∧
  (∀ (s : State) (r : RailId) (d : DockNo) (source : Source) (o : ChanOutcome),
    (s.pillar.rail r).chan.state = .idle → (s.pillar.rail r).chan.msg = some ({ cmd := .relock, dock := d }, source) →
    (s.pillar.rail r).chan.outcome = some o → (s.pillar.rail r).chan.orphan = false →
    ∃ t, exec (.channelOutcome r) s = .next t ∧ (t.pillar.rail r).chan = Channel.idle ∧
      (∀ i g, s.pillar.grantOf d = some (i, g) → g.dock = d → g.phase = .relock →
        ((s.pillar.head d).confirmed = some .restHeld → s.relocked i g true t) ∧
        ((s.pillar.head d).confirmed = some .restEmpty → s.relocked i g false t) ∧
        ((s.pillar.head d).confirmed ≠ some .restHeld → (s.pillar.head d).confirmed ≠ some .restEmpty →
          (o = .done → t.pillar.grant i = some { g with timer := some s.store.work.confirmTimeout } ∧
            t.pillar.docks = s.pillar.docks) ∧
          (o ≠ .done → g.attempts < 3 →
            t.pillar.grant i = some { g with attempts := g.attempts + 1, timer := none } ∧
            t.pillar.docks = s.pillar.docks ∧
            (t.pillar.rail (railOf d)).safety.head? = some { cmd := .relock, dock := d }) ∧
          (o ≠ .done → ¬ g.attempts < 3 → s.relockFailed i g .unreachable .relockFailed t))) ∧
      (∀ k, s.pillar.grantOf d = none → (s.pillar.dock d).relock = some k →
        (s.pillar.head d).confirmed ≠ some .restHeld → (s.pillar.head d).confirmed ≠ some .restEmpty →
        (∀ e, e ≠ d → t.pillar.dock e = s.pillar.dock e) ∧ t.pillar.grants = s.pillar.grants ∧
        (o = .done → t.pillar.dock d = { s.pillar.dock d with
          relock := some { k with deadline := some s.store.work.confirmTimeout } }) ∧
        (o ≠ .done → k.attempt < 3 →
          t.pillar.dock d = { s.pillar.dock d with relock := some { attempt := k.attempt + 1, deadline := none } } ∧
          (t.pillar.rail (railOf d)).safety.head? = some { cmd := .relock, dock := d }) ∧
        (o ≠ .done → ¬ k.attempt < 3 → (s.pillar.dock d).state = .relocking →
          t.pillar.dock d = (s.pillar.dock d).faulted .unreachable false ∧ t.pillar.order = s.pillar.order ∧
          t.pillar.records = s.pillar.records ++ s.lesserRecord (.dockFault d .unreachable) ∧
          t.pillar.overflow = s.lesserOverflow) ∧
        (o ≠ .done → ¬ k.attempt < 3 → (s.pillar.dock d).state ≠ .relocking →
          t.pillar.dock d = { s.pillar.dock d with relock := none } ∧ t.pillar.order = s.pillar.order ∧
          t.pillar.records = s.pillar.records)) ∧
      (∀ k, s.pillar.grantOf d = none → (s.pillar.dock d).relock = some k →
        (∀ e, e ≠ d → t.pillar.dock e = s.pillar.dock e) ∧ t.pillar.grants = s.pillar.grants ∧
        ((s.pillar.head d).confirmed = some .restHeld → s.rested d true t) ∧
        ((s.pillar.head d).confirmed = some .restEmpty → s.rested d false t))) ∧
  (∀ (s : State) (r : RailId) (m : Msg) (source : Source) (o : ChanOutcome),
    (s.pillar.rail r).chan.state = .idle → (s.pillar.rail r).chan.msg = some (m, source) →
    (s.pillar.rail r).chan.outcome = some o →
    ((s.pillar.rail r).chan.orphan = true ∨ ∃ pattern, m.cmd = .lamp pattern) →
    ∃ t, exec (.channelOutcome r) s = .next t ∧ (t.pillar.rail r).chan = Channel.idle ∧
      (t.pillar.rail r).stationLow = decide (source = .station) ∧
      (t.pillar.rail r).riderLow = decide (source = .rider) ∧
      (∀ src, (t.pillar.rail r).queue src = (s.pillar.rail r).queue src) ∧
      (t.pillar.rail r).training = (s.pillar.rail r).training ∧
      (∀ other, other ≠ r → t.pillar.rail other = s.pillar.rail other) ∧ t.pillar.docks = s.pillar.docks ∧
      t.pillar.order = s.pillar.order ∧ t.pillar.grants = s.pillar.grants ∧ t.pillar.heads = s.pillar.heads ∧
      t.pillar.filters = s.pillar.filters ∧ t.pillar.records = s.pillar.records ∧
      t.pillar.overflow = s.pillar.overflow ∧ t.pillar.spent = s.pillar.spent)

/-- R92 to R101: the outcome of a TAG_READ. A good one of a RETURN identification makes the dock DOCKED with the bike of that
tag; of a RECOVERY it confirms the retained bike by its tag, and otherwise replaces it as a return. A failed one is placed
again, and the third completes as a return with no tag. -/
def Obligations.TagReadsAreDelivered : Prop :=
  (∀ (s : State) (r : RailId) (d : DockNo) (source : Source) (ident : Ident) (replies : List Byte) (tag : Tag),
    (s.pillar.rail r).chan.state = .idle → (s.pillar.rail r).chan.msg = some ({ cmd := .tagRead, dock := d }, source) →
    (s.pillar.rail r).chan.outcome = some .done → (s.pillar.rail r).chan.orphan = false →
    (s.pillar.rail r).chan.replies = replies → replies.length = 9 →
    replies.getD 8 0#8 = 255#8 - byteSum (replies.take 8) → tag = BitVec.ofNat 64 (beNat (replies.take 8)) →
    (s.pillar.dock d).ident = some ident →
    ∃ t, exec (.channelOutcome r) s = .next t ∧ (t.pillar.rail r).chan = Channel.idle ∧
      (t.pillar.dock d).state = .docked ∧ (t.pillar.dock d).ident = none ∧
      (∀ e, e ≠ d → t.pillar.dock e = s.pillar.dock e) ∧ t.pillar.grants = s.pillar.grants ∧
      (ident.kind = .ret ∨ (s.pillar.dock d).bike.bind Bike.tag ≠ some tag →
        (t.pillar.dock d).bike = some { tag := some tag, cls := classOf (some tag), condition := .ok } ∧
        s.returnRecorded d (some tag) t) ∧
      (ident.kind = .ret → (t.pillar.dock d).hold = (s.pillar.dock d).hold ∧ t.pillar.order = s.pillar.order ++ [d]) ∧
      (ident.kind = .recovery → (s.pillar.dock d).bike.bind Bike.tag = some tag →
        t.pillar.dock d = { s.pillar.dock d with
          state := .docked, cause := none, watch := none, poor := false, ident := none, recovery := false } ∧
        t.pillar.order = s.pillar.order ∧
        t.pillar.records = s.pillar.records ++ s.lesserRecord (.dockRecovered d (some tag)) ∧
        t.pillar.overflow = s.lesserOverflow) ∧
      (ident.kind = .recovery → (s.pillar.dock d).bike.bind Bike.tag ≠ some tag →
        (t.pillar.dock d).recovery = false ∧
        ((s.pillar.dock d).bike = none →
          (t.pillar.dock d).hold = (s.pillar.dock d).hold ∧ t.pillar.order = s.pillar.order ++ [d]) ∧
        ((s.pillar.dock d).bike.isSome = true →
          (t.pillar.dock d).hold = (s.pillar.dock d).hold.filter (fun h => h = .service) ∧
          t.pillar.order = s.pillar.order.filter (fun e => e != d) ++ [d]))) ∧
  (∀ (s : State) (r : RailId) (d : DockNo) (source : Source) (ident : Ident) (o : ChanOutcome) (replies : List Byte),
    (s.pillar.rail r).chan.state = .idle → (s.pillar.rail r).chan.msg = some ({ cmd := .tagRead, dock := d }, source) →
    (s.pillar.rail r).chan.outcome = some o → (s.pillar.rail r).chan.orphan = false →
    (s.pillar.rail r).chan.replies = replies → (o ≠ .done ∨ replies.length ≠ 9 ∨
      replies.getD 8 0#8 ≠ 255#8 - byteSum (replies.take 8)) →
    (s.pillar.dock d).ident = some ident →
    ∃ t, exec (.channelOutcome r) s = .next t ∧ (∀ e, e ≠ d → t.pillar.dock e = s.pillar.dock e) ∧
      t.pillar.grants = s.pillar.grants ∧
      (ident.attempt < 3 →
        t.pillar.dock d = { s.pillar.dock d with ident := some { ident with attempt := ident.attempt + 1 } } ∧
        (t.pillar.rail (railOf d)).upkeep.head? = some { cmd := .tagRead, dock := d } ∧
        t.pillar.records = s.pillar.records ∧ t.pillar.order = s.pillar.order) ∧
      (¬ ident.attempt < 3 →
        (t.pillar.dock d).state = .docked ∧ (t.pillar.dock d).ident = none ∧
        (t.pillar.dock d).bike = some { tag := none, cls := .standard, condition := .ok } ∧
        s.returnRecorded d none t ∧
        (ident.kind = .ret ∨ (s.pillar.dock d).bike = none →
          (t.pillar.dock d).hold = (s.pillar.dock d).hold ∧ t.pillar.order = s.pillar.order ++ [d]) ∧
        (ident.kind = .recovery → (t.pillar.dock d).recovery = false ∧
          ((s.pillar.dock d).bike.isSome = true →
            (t.pillar.dock d).hold = (s.pillar.dock d).hold.filter (fun h => h = .service) ∧
            t.pillar.order = s.pillar.order.filter (fun e => e != d) ++ [d])))) ∧
  (∀ (s : State) (r : RailId) (d : DockNo) (source : Source) (o : ChanOutcome),
    (s.pillar.rail r).chan.state = .idle → (s.pillar.rail r).chan.msg = some ({ cmd := .tagRead, dock := d }, source) →
    (s.pillar.rail r).chan.outcome = some o → (s.pillar.dock d).ident = none →
    ∃ t, exec (.channelOutcome r) s = .next t ∧ t.pillar.docks = s.pillar.docks ∧ t.pillar.order = s.pillar.order ∧
      t.pillar.grants = s.pillar.grants ∧ t.pillar.records = s.pillar.records ∧
      t.pillar.overflow = s.pillar.overflow)

/-- R145, R149, R150: the restore of the levels, the thresholds, and the arbiter's hand-off to the contending message of the
source with the smallest threshold, sources of equal threshold giving way in the order SAFETY, STATION, RIDER, UPKEEP; with
no source that contends the channel is given to none. -/
def Obligations.ArbiterHandsOffTheChannel : Prop :=
  (∀ x : Rail, x.threshold .safety = 2 ∧ x.threshold .station = (if x.stationLow then 6 else 4) ∧
    x.threshold .rider = (if x.riderLow then 7 else 5) ∧ x.threshold .upkeep = 6) ∧
  ∀ (s : State) (r : RailId),
    ((s.pillar.rail r).restoreDue = true →
      ∃ t, exec (.quietCountRestore r) s = .next t ∧ (t.pillar.rail r).stationLow = false ∧
        (t.pillar.rail r).riderLow = false ∧ t.pillar.docks = s.pillar.docks ∧
        (t.pillar.rail r).quiet = (s.pillar.rail r).quiet) ∧
    ((s.pillar.rail r).arbiterDue = true → (s.pillar.rail r).restoreDue = false →
      (∀ src m, (s.pillar.rail r).contending src = some m →
        (s.pillar.rail r).quiet < (s.pillar.rail r).threshold src) →
      ∃ t, exec (.arbiterHandoff r) s = .next t ∧ (t.pillar.rail r).chan = (s.pillar.rail r).chan ∧
        (∀ src, (t.pillar.rail r).queue src = (s.pillar.rail r).queue src) ∧
        t.pillar.docks = s.pillar.docks ∧ t.pillar.grants = s.pillar.grants) ∧
    ((∃ src m, (s.pillar.rail r).contends src m) → (s.pillar.rail r).arbitrate.isSome = true) ∧
    (∀ (src : Source) (m : Msg), (s.pillar.rail r).arbiterDue = true → (s.pillar.rail r).restoreDue = false →
      (s.pillar.rail r).arbitrate = some (src, m) →
      ∃ t, exec (.arbiterHandoff r) s = .next t ∧
        (t.pillar.rail r).chan.msg = some (m, src) ∧ (t.pillar.rail r).chan.state = .offerFirst ∧
        (t.pillar.rail r).chan.pos = 1 ∧ (t.pillar.rail r).chan.timeout = 0 ∧ (t.pillar.rail r).chan.outcome = none ∧
        (t.pillar.rail r).queue src = ((s.pillar.rail r).queue src).erase m ∧
        (s.pillar.rail r).threshold src ≤ (s.pillar.rail r).quiet ∧
        (s.pillar.rail r).contending src = some m ∧
        (∀ other o, other ≠ src → (s.pillar.rail r).contends other o →
          (s.pillar.rail r).threshold src < (s.pillar.rail r).threshold other ∨
          ((s.pillar.rail r).threshold src = (s.pillar.rail r).threshold other ∧ src.rank < other.rank)) ∧
        (∀ id i g, m.cmd = .release id → s.pillar.findGrant id = some (i, g) → g.phase = .queued → g.dock = m.dock →
          t.pillar.grant i = some { g with phase := .sending }))

/-! ## Events of the docks -/

/-- R46 to R48, R84, R110, R129, R140, R148, R157: a silent report. A dock outside FAULT is SILENT, and in FAULT it loses its
relock alone; the messages for it leave every queue, and one in the channel is ended with its outcome not to be delivered;
the grant that held it is re-allocated, or ends FAILED with detail SILENT or LATCH_UNKNOWN; and the training of the head
ends, a skipped next head ending its own as any other does (the model's reading of R156, entry 24). The head of an
UNFITTED dock is not scanned and brings no silent report (R59, R128). -/
def Obligations.SilentReportMakesTheDockSilent : Prop :=
  ∀ (s : State) (d : DockNo), (s.pillar.rail (railOf d)).silentDue = some d → (s.pillar.dock d).state ≠ .unfitted →
    ∃ t, exec (.silentReport d) s = .next t ∧
      (t.pillar.head d).confirmed = none ∧ (t.pillar.head d).candidate = none ∧ (t.pillar.head d).stray = false ∧
      (t.pillar.head d).missed = (s.pillar.head d).missed ∧ (t.pillar.head d).delay = (s.pillar.head d).delay ∧
      t.pillar.filter d = (s.pillar.filter d).uninitialise ∧ t.pillar.order = s.pillar.order ∧
      (∀ src, ∀ m ∈ (t.pillar.rail (railOf d)).queue src, m.dock ≠ d) ∧
      ((∀ m source, (s.pillar.rail (railOf d)).chan.msg = some (m, source) → m.dock ≠ d) →
        (t.pillar.rail (railOf d)).chan = (s.pillar.rail (railOf d)).chan) ∧
      (∀ m source, (s.pillar.rail (railOf d)).chan.msg = some (m, source) → m.dock = d →
        ((s.pillar.rail (railOf d)).chan.outcome = none → (s.pillar.rail (railOf d)).chan.state ≠ .idle →
          (t.pillar.rail (railOf d)).chan = { (s.pillar.rail (railOf d)).chan with
            orphan := true, abort := .none, outcome := some .aborted, state := .ending, frames := 0, due := .none }) ∧
        ((s.pillar.rail (railOf d)).chan.outcome.isSome = true →
          (t.pillar.rail (railOf d)).chan = { (s.pillar.rail (railOf d)).chan with orphan := true, abort := .none })) ∧
      (s.pillar.underTraining d = false →
        t.pillar.head d = { s.pillar.head d with confirmed := none, candidate := none, stray := false } ∧
        (∀ e, e ≠ d → t.pillar.head e = s.pillar.head e) ∧
        (t.pillar.rail (railOf d)).training = (s.pillar.rail (railOf d)).training) ∧
      (s.pillar.underTraining d = true → s.pillar.trainingMoves (railOf d) d .failed t.pillar) ∧
      (s.pillar.grantOf d = none →
        t.pillar.grants = s.pillar.grants ∧ (∀ e, e ≠ d → t.pillar.dock e = s.pillar.dock e) ∧
        (∀ r, r ≠ railOf d → t.pillar.rail r = s.pillar.rail r) ∧
        (s.pillar.underTraining d = false → ∀ src, (t.pillar.rail (railOf d)).queue src =
          ((s.pillar.rail (railOf d)).queue src).filter (fun m => m.dock != d))) ∧
      ((s.pillar.dock d).state = .fault → s.pillar.grantOf d = none →
        t.pillar.dock d = { s.pillar.dock d with relock := none } ∧ t.pillar.records = s.pillar.records ∧
        t.pillar.overflow = s.pillar.overflow) ∧
      ((s.pillar.dock d).state ≠ .fault →
        t.pillar.dock d = (s.pillar.dock d).silenced ∧
        (t.pillar.dock d).state = .silent ∧ (t.pillar.dock d).cause = none ∧ (t.pillar.dock d).relock = none ∧
        (t.pillar.dock d).ident = none ∧ (t.pillar.dock d).recovery = false ∧ (t.pillar.dock d).watch = none ∧
        (t.pillar.dock d).bike = (s.pillar.dock d).bike ∧ (t.pillar.dock d).hold = (s.pillar.dock d).hold ∧
        (t.pillar.dock d).owed = (s.pillar.dock d).owed ∧ (t.pillar.dock d).lamp = (s.pillar.dock d).lamp ∧
        t.pillar.overflow = s.lesserOverflow ∧
        (s.pillar.grantOf d = none → t.pillar.records = s.pillar.records ++ s.lesserRecord (.dockFault d .silent)) ∧
        (∀ i g, s.pillar.grantOf d = some (i, g) → g.dock = d → (s.pillar.dock d).state ≠ .docked →
          ((g.phase = .queued ∨ g.phase = .sending ∨ g.phase = .confirming) → g.cancelPending = false →
            s.reallocated i g .silent (s.lesserRecord (.dockFault d .silent)) t) ∧
          ((g.phase = .open ∨ g.phase = .relock ∨ g.cancelPending = true) →
            s.grantEnded i g .failed .latchUnknown (s.lesserRecord (.dockFault d .silent)) t ∧
            ∀ e, e ≠ d → t.pillar.dock e = s.pillar.dock e)))

/-- R49: the first code of a SILENT dock that no grant holds starts its recovery. A head under training is no exception
(R157); that the dock is handled before the training reads the code is the model's choice (entry 35). -/
def Obligations.FirstCodeStartsRecovery : Prop :=
  ∀ (s : State) (d : DockNo) (code : Code), (s.pillar.rail (railOf d)).codeDue = some (d, true) →
    (s.pillar.head d).confirmed = some code → s.pillar.grantOf d = none → (s.pillar.dock d).state = .silent →
    ∃ t, exec (.firstCodeEvent d) s = .next t ∧ (t.pillar.rail (railOf d)).codeDue = none ∧
      (∀ e, e ≠ d → t.pillar.dock e = s.pillar.dock e) ∧ t.pillar.grants = s.pillar.grants ∧
      s.recovers d code t

/-- R44 to R46, R49, R90, R102, R107: change events on a dock that no grant holds, in every state: a SILENT dock, whose first
code was TRAINING, recovers (R49), and TRAINING and the cells of R44 that say so change nothing. A change event of a head
under training reaches the dock too (R157); that the dock is handled, and its presence flag read, before the training reads
the code is the model's choice (entry 35). That a rest code completes the precautionary relock of a dock in FAULT, and
changes nothing else of it, is its reading of R45 and R46 (entry 12). -/
def Obligations.ChangeEventsActByDockState : Prop :=
  ∀ (s : State) (d : DockNo) (code : Code), (s.pillar.rail (railOf d)).codeDue = some (d, false) →
    (s.pillar.head d).confirmed = some code → s.pillar.grantOf d = none →
    ∃ t, exec (.changeEvent d) s = .next t ∧ (∀ e, e ≠ d → t.pillar.dock e = s.pillar.dock e) ∧
      t.pillar.grants = s.pillar.grants ∧ t.pillar.spent = s.pillar.spent ∧
      ((s.pillar.dock d).state = .silent → s.recovers d code t) ∧
      ((code = .training ∨
          (code = .restEmpty ∧ (s.pillar.dock d).state = .empty) ∨
          (code = .restHeld ∧ ((s.pillar.dock d).state = .returning ∨ (s.pillar.dock d).state = .docked)) ∨
          (code = .open ∧ ((s.pillar.dock d).state = .relocking ∨ (s.pillar.dock d).state = .fault)) ∨
          (code = .jammed ∧ (s.pillar.dock d).state = .fault) ∨
          ((s.pillar.dock d).state = .fault ∧ (s.pillar.dock d).relock = none)) →
        t.pillar.dock d = s.pillar.dock d ∧ t.pillar.order = s.pillar.order ∧
        t.pillar.records = s.pillar.records ∧ t.pillar.overflow = s.pillar.overflow) ∧
      (code = .restHeld → (s.pillar.dock d).state = .empty → (s.pillar.dock d).recovery = false →
        (t.pillar.dock d).state = .returning ∧ (t.pillar.dock d).ident = some { kind := .ret, attempt := 1 } ∧
        (t.pillar.dock d).watch = none ∧ (t.pillar.dock d).poor = false ∧ t.pillar.records = s.pillar.records ∧
        { cmd := .tagRead, dock := d } ∈ (t.pillar.rail (railOf d)).upkeep) ∧
      (code = .restEmpty → (s.pillar.dock d).state = .docked →
        (t.pillar.dock d).state = .empty ∧ (t.pillar.dock d).bike = none ∧ d ∉ t.pillar.order ∧
        (t.pillar.dock d).hold = (s.pillar.dock d).hold.filter (fun h => h = .service) ∧
        (t.pillar.dock d).watch =
          (if s.pillar.sensed d then some (s.store.work.seatTimeout * 1000) else none) ∧
        t.pillar.records = s.pillar.records ++
          s.lesserRecord (.bikeMissing d ((s.pillar.dock d).bike.bind Bike.tag)) ∧
        t.pillar.overflow = s.lesserOverflow) ∧
      (code = .restEmpty → (s.pillar.dock d).state = .returning →
        (t.pillar.dock d).state = .empty ∧ (t.pillar.dock d).ident = none ∧ (t.pillar.dock d).recovery = false ∧
        (t.pillar.dock d).watch =
          (if s.pillar.sensed d then some (s.store.work.seatTimeout * 1000) else none) ∧
        ((s.pillar.dock d).recovery = false →
          (t.pillar.dock d).bike = (s.pillar.dock d).bike ∧ t.pillar.records = s.pillar.records) ∧
        ((s.pillar.dock d).recovery = true → (t.pillar.dock d).bike = none ∧
          t.pillar.records = s.pillar.records ++
            s.lesserRecord (.dockRecovered d ((s.pillar.dock d).bike.bind Bike.tag)))) ∧
      (code = .open → ((s.pillar.dock d).state = .empty ∨ (s.pillar.dock d).state = .docked ∨
          (s.pillar.dock d).state = .returning) → (s.pillar.dock d).relock = none →
        (t.pillar.dock d).state = .relocking ∧ (t.pillar.dock d).relock = some { attempt := 1, deadline := none } ∧
        (t.pillar.dock d).ident = none ∧ (t.pillar.dock d).bike = (s.pillar.dock d).bike ∧
        { cmd := .relock, dock := d } ∈ (t.pillar.rail (railOf d)).safety) ∧
      (code = .jammed → ((s.pillar.dock d).state = .empty ∨ (s.pillar.dock d).state = .docked ∨
          (s.pillar.dock d).state = .returning ∨ (s.pillar.dock d).state = .relocking) →
        t.pillar.dock d = (s.pillar.dock d).faulted .jammed false ∧
        t.pillar.records = s.pillar.records ++ s.lesserRecord (.dockFault d .jammed) ∧
        t.pillar.overflow = s.lesserOverflow) ∧
      (∀ k, (code = .restHeld ∨ code = .restEmpty) →
        ((s.pillar.dock d).state = .relocking ∨ (s.pillar.dock d).state = .fault) →
        (s.pillar.dock d).relock = some k →
        ((s.pillar.waits d Cmd.isRelock = true ∨ k.deadline.isSome = true) →
          s.rested d (decide (code = .restHeld)) t) ∧
        (s.pillar.waits d Cmd.isRelock = false → k.deadline = none →
          t.pillar.dock d = s.pillar.dock d ∧ t.pillar.records = s.pillar.records))

/-- R70, R72, R74, R77 to R79, R87, R10: the change events to OPEN, REST_HELD and REST_EMPTY on the dock that a grant holds, by
phase, and an absent event in phase OPEN, which ends the grant RELEASED with detail PULLED. That REST_EMPTY in SENDING with
a pending cancel takes the cause EMPTIED is the model's reading of R74 against R82 (entry 27). A change event of a head under
training reaches the grant too (R157), before the training reads the code (the model's choice, entry 35). -/
def Obligations.GrantsOpenAndEndByEvents : Prop :=
  (∀ (s : State) (d : DockNo) (i : Fin 8) (g : Grant) (code : Code),
    (s.pillar.rail (railOf d)).codeDue = some (d, false) → (s.pillar.head d).confirmed = some code →
    s.pillar.grantOf d = some (i, g) → g.dock = d →
    ∃ t, exec (.changeEvent d) s = .next t ∧
      (code = .open → (g.phase = .queued ∨ g.phase = .confirming ∨ (g.phase = .sending ∧ g.cancelPending = false)) →
        t.pillar.grant i = some { g with phase := .open, timer := some (s.store.work.pullWindow * 1000) } ∧
        (∀ j, j ≠ i → t.pillar.grant j = s.pillar.grant j) ∧ (t.pillar.dock d).state = .open ∧
        (t.pillar.dock d).grant = (s.pillar.dock d).grant ∧ (t.pillar.dock d).bike = (s.pillar.dock d).bike ∧
        (∀ e, e ≠ d → t.pillar.dock e = s.pillar.dock e) ∧ t.pillar.records = s.pillar.records ∧
        (∀ src, ∀ m ∈ (t.pillar.rail (railOf d)).queue src, m.dock = d → m.cmd.isRelease = false)) ∧
      (code = .open → g.phase = .sending → g.cancelPending = true → s.relocks i g .cancel t) ∧
      (code = .restEmpty → (g.phase = .queued ∨ g.phase = .sending ∨ g.phase = .confirming) →
        s.relocks i g .emptied t) ∧
      ((code = .restHeld ∨ code = .restEmpty) → g.phase = .open → s.relocks i g .pull t) ∧
      ((code = .restHeld ∨ code = .restEmpty) → g.phase = .relock →
        ((s.pillar.waits d Cmd.isRelock = true ∨ g.timer.isSome = true) →
          s.relocked i g (decide (code = .restHeld)) t) ∧
        (s.pillar.waits d Cmd.isRelock = false → g.timer = none →
          t.pillar.grants = s.pillar.grants ∧ t.pillar.docks = s.pillar.docks ∧
          t.pillar.records = s.pillar.records)) ∧
      (code = .restHeld → (g.phase = .queued ∨ g.phase = .sending ∨ g.phase = .confirming) →
        t.pillar.grants = s.pillar.grants ∧ t.pillar.docks = s.pillar.docks ∧
        t.pillar.records = s.pillar.records)) ∧
  (∀ (s : State) (d : DockNo) (i : Fin 8) (g : Grant), (s.pillar.rail (railOf d)).presenceDue = some (d, false) →
    s.pillar.grantOf d = some (i, g) → g.dock = d →
    ∃ t, exec (.absentEvent d) s = .next t ∧ (∀ e, e ≠ d → t.pillar.dock e = s.pillar.dock e) ∧
      (g.phase = .open →
        (t.pillar.dock d).state = .empty ∧ (t.pillar.dock d).grant = none ∧ (t.pillar.dock d).bike = none ∧
        d ∉ t.pillar.order ∧ t.pillar.dock d = s.emptied d ∧
        s.grantEnded i g .released .pulled [] t ∧
        (g.rider.isSome = true → ∀ e ∈ t.pillar.spent, e.grant ≠ some g.id)) ∧
      (g.phase = .relock → t.pillar.grant i = some { g with latePull := true } ∧
        (∀ j, j ≠ i → t.pillar.grant j = s.pillar.grant j) ∧ t.pillar.docks = s.pillar.docks ∧
        t.pillar.records = s.pillar.records) ∧
      ((g.phase = .queued ∨ g.phase = .sending ∨ g.phase = .confirming) →
        t.pillar.grants = s.pillar.grants ∧ t.pillar.docks = s.pillar.docks ∧
        t.pillar.records = s.pillar.records))

/-- R73, R75, R77, R80, R87: JAMMED confirmed on the dock that a grant holds: the dock is in FAULT. Before the latch opens
the grant is re-allocated, or ends CANCELLED when a cancel is pending; in OPEN and in RELOCK it ends, read from the Presence
Filter's flag and late-pull. A head under training is no exception (R157); the grant is handled, and the flag read, before
the training reads the code (the model's choice, entry 35). -/
def Obligations.JammedGrantsMoveOrEnd : Prop :=
  ∀ (s : State) (d : DockNo) (i : Fin 8) (g : Grant), (s.pillar.rail (railOf d)).codeDue = some (d, false) →
    (s.pillar.head d).confirmed = some .jammed → s.pillar.grantOf d = some (i, g) → g.dock = d →
    (s.pillar.dock d).state ≠ .docked →
    ∃ t, exec (.changeEvent d) s = .next t ∧ t.pillar.overflow = s.lesserOverflow ∧
      (g.phase = .queued ∨ g.phase = .sending ∨ g.phase = .confirming →
        t.pillar.dock d = (s.pillar.dock d).faulted .jammed false ∧
        (∀ src, ∀ m ∈ (t.pillar.rail (railOf d)).queue src, m.dock = d → m.cmd.isRelease = false) ∧
        (g.cancelPending = true →
          s.grantEnded i g .cancelled .jammed (s.lesserRecord (.dockFault d .jammed)) t ∧
          t.pillar.order = s.pillar.order ∧ ∀ e, e ≠ d → t.pillar.dock e = s.pillar.dock e) ∧
        (g.cancelPending = false →
          s.reallocated i g .jammed (s.lesserRecord (.dockFault d .jammed)) t)) ∧
      (g.phase = .open → s.faultEnded i g .jammed (!s.pillar.sensed d) .notTaken .jammed t) ∧
      (g.phase = .relock → s.relockFailed i g .jammed .jammed t ∧
        ∀ m ∈ (t.pillar.rail (railOf d)).safety, m.dock = d → m.cmd.isRelock = false)

/-- R104 to R106, R118: the presence events of a dock that no grant holds, and the POOR_DOCK timer. -/
def Obligations.SeatWatchFollowsPresence : Prop :=
  ∀ (s : State) (d : DockNo), s.pillar.grantOf d = none → (s.pillar.dock d).state = .empty →
    ((s.pillar.rail (railOf d)).presenceDue = some (d, true) → (s.pillar.dock d).watch = none →
      (s.pillar.dock d).poor = false →
      ∃ t, exec (.presentEvent d) s = .next t ∧
        t.pillar.dock d = { s.pillar.dock d with watch := some (s.store.work.seatTimeout * 1000), poor := false } ∧
        (∀ e, e ≠ d → t.pillar.dock e = s.pillar.dock e) ∧ t.pillar.records = s.pillar.records) ∧
    ((s.pillar.rail (railOf d)).presenceDue = some (d, false) →
      ∃ t, exec (.absentEvent d) s = .next t ∧
        t.pillar.dock d = { s.pillar.dock d with watch := none, poor := false } ∧
        (∀ e, e ≠ d → t.pillar.dock e = s.pillar.dock e) ∧ t.pillar.records = s.pillar.records) ∧
    ((s.pillar.dock d).watch = some 0 →
      ∃ t, exec (.poorDock d) s = .next t ∧
        t.pillar.dock d = { s.pillar.dock d with watch := none, poor := true } ∧
        (∀ e, e ≠ d → t.pillar.dock e = s.pillar.dock e) ∧
        (s.pillar.records.length + s.pillar.active < 64 →
          t.pillar.records = s.pillar.records ++ [s.record (.poorDock d)]))

/-- R45, R71, R75, R77, R78, R80: the deadlines of a relock without a grant and of a grant, before the third attempt and at
it. -/
def Obligations.DeadlinesFailTheAttempt : Prop :=
  (∀ (s : State) (d : DockNo) (k : Relock), (s.pillar.dock d).relock = some k → k.deadline = some 0 →
    ∃ t, exec (.grantlessRelockDeadline d) s = .next t ∧ (∀ e, e ≠ d → t.pillar.dock e = s.pillar.dock e) ∧
      t.pillar.grants = s.pillar.grants ∧
      (k.attempt < 3 →
        t.pillar.dock d = { s.pillar.dock d with relock := some { attempt := k.attempt + 1, deadline := none } } ∧
        (t.pillar.rail (railOf d)).safety.head? = some { cmd := .relock, dock := d } ∧
        t.pillar.records = s.pillar.records) ∧
      (¬ k.attempt < 3 → (s.pillar.dock d).state = .relocking →
        t.pillar.dock d = (s.pillar.dock d).faulted .unreachable false ∧ t.pillar.order = s.pillar.order ∧
        t.pillar.records = s.pillar.records ++ s.lesserRecord (.dockFault d .unreachable) ∧
        t.pillar.overflow = s.lesserOverflow) ∧
      (¬ k.attempt < 3 → (s.pillar.dock d).state ≠ .relocking →
        t.pillar.dock d = { s.pillar.dock d with relock := none } ∧ t.pillar.records = s.pillar.records ∧
        t.pillar.order = s.pillar.order)) ∧
  (∀ (s : State) (grant : Byte) (i : Fin 8) (g : Grant), s.pillar.findGrant grant.toNat = some (i, g) →
    g.timer = some 0 →
    (g.phase = .confirming → g.attempts < 3 →
      ∃ t, exec (.grantConfirmExpiry grant) s = .next t ∧
        t.pillar.grant i = some { g with attempts := g.attempts + 1, phase := .queued, timer := none } ∧
        t.pillar.docks = s.pillar.docks ∧
        ((t.pillar.rail (railOf g.dock)).queue (if g.rider.isSome then .rider else .station)).head? =
          some { cmd := .release g.id, dock := g.dock }) ∧
    (g.phase = .confirming → ¬ g.attempts < 3 → (s.pillar.dock g.dock).state ≠ .docked →
      ∃ t, exec (.grantConfirmExpiry grant) s = .next t ∧ s.releaseGivenUp i g t) ∧
    (g.phase = .open →
      ∃ t, exec (.pullDeadlineExpiry grant) s = .next t ∧
        t.pillar.grant i = some { g with phase := .relock, cause := some .pull, attempts := 1, timer := none } ∧
        (t.pillar.dock g.dock).state = .relocking ∧ t.pillar.records = s.pillar.records ∧
        { cmd := .relock, dock := g.dock } ∈ (t.pillar.rail (railOf g.dock)).safety ∧ s.relocks i g .pull t) ∧
    (g.phase = .relock → g.attempts < 3 →
      ∃ t, exec (.relockDeadlineExpiry grant) s = .next t ∧
        t.pillar.grant i = some { g with attempts := g.attempts + 1, timer := none } ∧
        t.pillar.docks = s.pillar.docks ∧
        (t.pillar.rail (railOf g.dock)).safety.head? = some { cmd := .relock, dock := g.dock }) ∧
    (g.phase = .relock → ¬ g.attempts < 3 →
      ∃ t, exec (.relockDeadlineExpiry grant) s = .next t ∧ s.relockFailed i g .unreachable .relockFailed t))

/-! ## Invariants that every step keeps -/

/-- What the invariants below say holds right after reset. -/
def Obligations.InvariantsHoldAtReset : Prop :=
  State.reset.portOk ∧
  State.reset.pillar.attentionOk ∧
  State.reset.pillar.roomOk ∧
  State.reset.settingsOk ∧
  State.reset.clock.ok ∧
  State.reset.tcu.denyOk ∧ State.reset.pillar.spentOk ∧
  State.reset.pillar.grantsOk ∧
  State.reset.pillar.linksOk ∧
  State.reset.pillar.orderOk

/-- R13, R170: READY, the buffers and the port state agree, and the request being worked is the one the TCU holds. -/
def Obligations.PortAndReadyAgree : Prop :=
  ∀ s t : State, s.portOk → step s = .next t → t.portOk

/-- R179: ATTENTION is high exactly while the Record Queue holds a record. -/
def Obligations.AttentionFollowsTheRecordQueue : Prop :=
  ∀ s t : State, s.pillar.attentionOk → step s = .next t → t.pillar.attentionOk

/-- R65, R177: the occupancy of the Record Queue plus the number of active grants never exceeds 64. -/
def Obligations.RoomIsNeverExceeded : Prop :=
  ∀ s t : State, s.pillar.roomOk → step s = .next t → t.pillar.roomOk

/-- R22, R116, R151, R181: the settings, the sample delays and the trim stay in their ranges. -/
def Obligations.SettingsStayInRange : Prop :=
  ∀ s t : State, s.settingsOk → step s = .next t → t.settingsOk

/-- R23, R28, R30, R35: the clock stays within its bounds, its state is the derived one, and H is never less than
now. -/
def Obligations.ClockStaysWithinItsBounds : Prop :=
  ∀ s t : State, s.settingsOk → s.clock.ok → step s = .next t → t.clock.ok

/-- R6, R9: the deny list and the spent list keep their order, their bounds and their distinctness. -/
def Obligations.DenyAndSpentListsKeepTheirOrder : Prop :=
  ∀ s t : State, s.tcu.denyOk → s.pillar.spentOk → step s = .next t → t.tcu.denyOk ∧ t.pillar.spentOk

/-- R63, R68: the id counter lies in 0 to 255, the ids of active grants lie in 1 to 255 and differ, and so do the accounts of
active RIDER grants. -/
def Obligations.GrantsKeepTheirIdentity : Prop :=
  ∀ s t : State, s.pillar.grantsOk → step s = .next t → t.pillar.grantsOk

/-- R10, R52, R64: docks and grants name each other, every RELEASING or OPEN dock is held by exactly one active grant, a
spent-list entry's grant id names an active grant of its serial, and no two holds carry the same reservation id. -/
def Obligations.GrantsAndDocksNameEachOther : Prop :=
  ∀ s t : State, s.pillar.grantsOk → s.pillar.linksOk → step s = .next t → t.pillar.linksOk

/-- R42: the Dock Order List holds exactly the docks whose bike record is present, each once. -/
def Obligations.DockOrderListHoldsTheBikes : Prop :=
  ∀ s t : State, s.pillar.orderOk → step s = .next t → t.pillar.orderOk

/-- R3: the key slots change at KEY_LOAD, KEY_DROP, RESTORE_FACTORY and reset alone, when no request is held. A write
selection that carries a frame is left out, since it may carry one of these requests. -/
def Obligations.OnlyKeyCommandsChangeTheSlots : Prop :=
  ∀ (c : Instr) (s t : State), s.tcu.held = none → exec c s = .next t →
    (∀ cause, c ≠ .reset cause) → (∀ slot epoch key, c ≠ .keyLoad slot epoch key) → (∀ slot, c ≠ .keyDrop slot) →
    c ≠ .restoreFactory → (∀ bytes, c ≠ .writeSelectionInvalid bytes) → wellFormed c = true →
    t.tcu.keyA = s.tcu.keyA ∧ t.tcu.keyB = s.tcu.keyB

/-! ## Encodings -/

/-- R169, spec/13_formats.md: the frame of every station request reads back as that request, and its write selection acts
as the row it stands for. -/
def Obligations.RequestFramesReadBack : Prop :=
  ∀ (c : Instr) (r : Request), wellFormed c = true → commandRequest c = some r →
    examineFrame (stationFrame (requestContent r)) = .valid r ∧
    ∀ s : State, exec (.writeSelectionInvalid (requestSelection r)) s = exec c s

/-- R160, R162, spec/13_formats.md: a frame of each kind the part receives, taken byte by byte from HUNT, is accepted once
and gives back its contents, and the receiver is in HUNT again. R187: the check byte of every frame the part builds makes
the sum of what it counts 0 mod 256; the start byte of a rider frame is not counted. -/
def Obligations.FramesReadBackAndSumToZero : Prop :=
  (∀ (rx : RiderRx) (ref : Byte) (token : Token), rx.state = .hunt →
    (riderFrame ([0x01#8, ref] ++ tokenBytes token)).length = 33 ∧
    RiderRx.feed (riderFrame ([0x01#8, ref] ++ tokenBytes token)) rx = (rx.hunt, [.present ref token]) ∧
    RiderRx.feed (riderFrame [0x02#8, ref]) rx = (rx.hunt, [.cancel ref]) ∧
    RiderRx.feed (riderFrame [0x03#8]) rx = (rx.hunt, [.query])) ∧
  (∀ f : SentFrame, ∃ rest, f.bytes = 0xA5#8 :: rest ∧ byteSum rest = 0#8) ∧
  (∀ r : Response, byteSum r.bytes = 0#8)
end

