-- ==== Sys2Proof/Laws/State.lean ====
section
/-!
SUPPORT. One lemma per field per update of the state, and the laws of the accessors: reading what was written gives it
back, and a write leaves every other place alone.
-/

namespace Sys2Proof.Machine

/-! ## Tables -/

@[simp] theorem mapTable_getElem {α β : Type} {n : Nat} (f : α → β) (v : Vector α n) (i : Nat) (h : i < n) :
    (mapTable f v)[i] = f v[i] := by simp [mapTable]

@[simp] theorem tabulate_getElem {α : Type} (f : DockNo → α) (i : Nat) (h : i < 48) :
    (tabulate f)[i] = f ⟨i, h⟩ := by simp [tabulate]

theorem mem_allDocks (d : DockNo) : d ∈ allDocks := List.mem_finRange d

theorem mem_allSlots (i : Fin 8) : i ∈ allSlots := List.mem_finRange i

/-! ## Reading what was written -/

@[simp] theorem setDock_dock (p : Pillar) (d e : DockNo) (x : Dock) :
    (p.setDock d x).dock e = if d = e then x else p.dock e := by
  simp [Pillar.dock, Pillar.setDock, Vector.getElem_set, Fin.ext_iff]

@[simp] theorem setHead_head (p : Pillar) (d e : DockNo) (x : Head) :
    (p.setHead d x).head e = if d = e then x else p.head e := by
  simp [Pillar.head, Pillar.setHead, Vector.getElem_set, Fin.ext_iff]

@[simp] theorem setFilter_filter (p : Pillar) (d e : DockNo) (x : Filter) :
    (p.setFilter d x).filter e = if d = e then x else p.filter e := by
  simp [Pillar.filter, Pillar.setFilter, Vector.getElem_set, Fin.ext_iff]

@[simp] theorem setGrant_grant (p : Pillar) (d e : Fin 8) (x : Option Grant) :
    (p.setGrant d x).grant e = if d = e then x else p.grant e := by
  simp [Pillar.grant, Pillar.setGrant, Vector.getElem_set, Fin.ext_iff]

@[simp] theorem setRail_rail (p : Pillar) (r q : RailId) (x : Rail) :
    (p.setRail r x).rail q = if r = q then x else p.rail q := by
  cases r <;> cases q <;> simp [Pillar.setRail, Pillar.rail]

/-! ## A write to one table leaves the other fields alone -/

@[simp] theorem setDock_order (p : Pillar) (d : DockNo) (x : Dock) : (p.setDock d x).order = p.order := rfl
@[simp] theorem setDock_fitted (p : Pillar) (d : DockNo) (x : Dock) : (p.setDock d x).fitted = p.fitted := rfl
@[simp] theorem setDock_filters (p : Pillar) (d : DockNo) (x : Dock) : (p.setDock d x).filters = p.filters := rfl
@[simp] theorem setDock_heads (p : Pillar) (d : DockNo) (x : Dock) : (p.setDock d x).heads = p.heads := rfl
@[simp] theorem setDock_grants (p : Pillar) (d : DockNo) (x : Dock) : (p.setDock d x).grants = p.grants := rfl
@[simp] theorem setDock_lastGrant (p : Pillar) (d : DockNo) (x : Dock) : (p.setDock d x).lastGrant = p.lastGrant := rfl
@[simp] theorem setDock_suspended (p : Pillar) (d : DockNo) (x : Dock) : (p.setDock d x).suspended = p.suspended := rfl
@[simp] theorem setDock_railA (p : Pillar) (d : DockNo) (x : Dock) : (p.setDock d x).railA = p.railA := rfl
@[simp] theorem setDock_railB (p : Pillar) (d : DockNo) (x : Dock) : (p.setDock d x).railB = p.railB := rfl
@[simp] theorem setDock_spent (p : Pillar) (d : DockNo) (x : Dock) : (p.setDock d x).spent = p.spent := rfl
@[simp] theorem setDock_out (p : Pillar) (d : DockNo) (x : Dock) : (p.setDock d x).out = p.out := rfl
@[simp] theorem setDock_tx (p : Pillar) (d : DockNo) (x : Dock) : (p.setDock d x).tx = p.tx := rfl
@[simp] theorem setDock_records (p : Pillar) (d : DockNo) (x : Dock) : (p.setDock d x).records = p.records := rfl
@[simp] theorem setDock_overflow (p : Pillar) (d : DockNo) (x : Dock) : (p.setDock d x).overflow = p.overflow := rfl
@[simp] theorem setDock_attention (p : Pillar) (d : DockNo) (x : Dock) : (p.setDock d x).attention = p.attention := rfl

@[simp] theorem setHead_docks (p : Pillar) (d : DockNo) (x : Head) : (p.setHead d x).docks = p.docks := rfl
@[simp] theorem setHead_order (p : Pillar) (d : DockNo) (x : Head) : (p.setHead d x).order = p.order := rfl
@[simp] theorem setHead_fitted (p : Pillar) (d : DockNo) (x : Head) : (p.setHead d x).fitted = p.fitted := rfl
@[simp] theorem setHead_filters (p : Pillar) (d : DockNo) (x : Head) : (p.setHead d x).filters = p.filters := rfl
@[simp] theorem setHead_grants (p : Pillar) (d : DockNo) (x : Head) : (p.setHead d x).grants = p.grants := rfl
@[simp] theorem setHead_lastGrant (p : Pillar) (d : DockNo) (x : Head) : (p.setHead d x).lastGrant = p.lastGrant := rfl
@[simp] theorem setHead_suspended (p : Pillar) (d : DockNo) (x : Head) : (p.setHead d x).suspended = p.suspended := rfl
@[simp] theorem setHead_railA (p : Pillar) (d : DockNo) (x : Head) : (p.setHead d x).railA = p.railA := rfl
@[simp] theorem setHead_railB (p : Pillar) (d : DockNo) (x : Head) : (p.setHead d x).railB = p.railB := rfl
@[simp] theorem setHead_spent (p : Pillar) (d : DockNo) (x : Head) : (p.setHead d x).spent = p.spent := rfl
@[simp] theorem setHead_out (p : Pillar) (d : DockNo) (x : Head) : (p.setHead d x).out = p.out := rfl
@[simp] theorem setHead_tx (p : Pillar) (d : DockNo) (x : Head) : (p.setHead d x).tx = p.tx := rfl
@[simp] theorem setHead_records (p : Pillar) (d : DockNo) (x : Head) : (p.setHead d x).records = p.records := rfl
@[simp] theorem setHead_overflow (p : Pillar) (d : DockNo) (x : Head) : (p.setHead d x).overflow = p.overflow := rfl
@[simp] theorem setHead_attention (p : Pillar) (d : DockNo) (x : Head) : (p.setHead d x).attention = p.attention := rfl

@[simp] theorem setFilter_docks (p : Pillar) (d : DockNo) (x : Filter) : (p.setFilter d x).docks = p.docks := rfl
@[simp] theorem setFilter_order (p : Pillar) (d : DockNo) (x : Filter) : (p.setFilter d x).order = p.order := rfl
@[simp] theorem setFilter_fitted (p : Pillar) (d : DockNo) (x : Filter) : (p.setFilter d x).fitted = p.fitted := rfl
@[simp] theorem setFilter_heads (p : Pillar) (d : DockNo) (x : Filter) : (p.setFilter d x).heads = p.heads := rfl
@[simp] theorem setFilter_grants (p : Pillar) (d : DockNo) (x : Filter) : (p.setFilter d x).grants = p.grants := rfl
@[simp] theorem setFilter_lastGrant (p : Pillar) (d : DockNo) (x : Filter) : (p.setFilter d x).lastGrant = p.lastGrant := rfl
@[simp] theorem setFilter_suspended (p : Pillar) (d : DockNo) (x : Filter) : (p.setFilter d x).suspended = p.suspended := rfl
@[simp] theorem setFilter_railA (p : Pillar) (d : DockNo) (x : Filter) : (p.setFilter d x).railA = p.railA := rfl
@[simp] theorem setFilter_railB (p : Pillar) (d : DockNo) (x : Filter) : (p.setFilter d x).railB = p.railB := rfl
@[simp] theorem setFilter_spent (p : Pillar) (d : DockNo) (x : Filter) : (p.setFilter d x).spent = p.spent := rfl
@[simp] theorem setFilter_out (p : Pillar) (d : DockNo) (x : Filter) : (p.setFilter d x).out = p.out := rfl
@[simp] theorem setFilter_tx (p : Pillar) (d : DockNo) (x : Filter) : (p.setFilter d x).tx = p.tx := rfl
@[simp] theorem setFilter_records (p : Pillar) (d : DockNo) (x : Filter) : (p.setFilter d x).records = p.records := rfl
@[simp] theorem setFilter_overflow (p : Pillar) (d : DockNo) (x : Filter) : (p.setFilter d x).overflow = p.overflow := rfl
@[simp] theorem setFilter_attention (p : Pillar) (d : DockNo) (x : Filter) : (p.setFilter d x).attention = p.attention := rfl

@[simp] theorem setGrant_docks (p : Pillar) (d : Fin 8) (x : Option Grant) : (p.setGrant d x).docks = p.docks := rfl
@[simp] theorem setGrant_order (p : Pillar) (d : Fin 8) (x : Option Grant) : (p.setGrant d x).order = p.order := rfl
@[simp] theorem setGrant_fitted (p : Pillar) (d : Fin 8) (x : Option Grant) : (p.setGrant d x).fitted = p.fitted := rfl
@[simp] theorem setGrant_filters (p : Pillar) (d : Fin 8) (x : Option Grant) : (p.setGrant d x).filters = p.filters := rfl
@[simp] theorem setGrant_heads (p : Pillar) (d : Fin 8) (x : Option Grant) : (p.setGrant d x).heads = p.heads := rfl
@[simp] theorem setGrant_lastGrant (p : Pillar) (d : Fin 8) (x : Option Grant) : (p.setGrant d x).lastGrant = p.lastGrant := rfl
@[simp] theorem setGrant_suspended (p : Pillar) (d : Fin 8) (x : Option Grant) : (p.setGrant d x).suspended = p.suspended := rfl
@[simp] theorem setGrant_railA (p : Pillar) (d : Fin 8) (x : Option Grant) : (p.setGrant d x).railA = p.railA := rfl
@[simp] theorem setGrant_railB (p : Pillar) (d : Fin 8) (x : Option Grant) : (p.setGrant d x).railB = p.railB := rfl
@[simp] theorem setGrant_spent (p : Pillar) (d : Fin 8) (x : Option Grant) : (p.setGrant d x).spent = p.spent := rfl
@[simp] theorem setGrant_out (p : Pillar) (d : Fin 8) (x : Option Grant) : (p.setGrant d x).out = p.out := rfl
@[simp] theorem setGrant_tx (p : Pillar) (d : Fin 8) (x : Option Grant) : (p.setGrant d x).tx = p.tx := rfl
@[simp] theorem setGrant_records (p : Pillar) (d : Fin 8) (x : Option Grant) : (p.setGrant d x).records = p.records := rfl
@[simp] theorem setGrant_overflow (p : Pillar) (d : Fin 8) (x : Option Grant) : (p.setGrant d x).overflow = p.overflow := rfl
@[simp] theorem setGrant_attention (p : Pillar) (d : Fin 8) (x : Option Grant) : (p.setGrant d x).attention = p.attention := rfl

@[simp] theorem setRail_docks (p : Pillar) (r : RailId) (x : Rail) : (p.setRail r x).docks = p.docks := by cases r <;> rfl
@[simp] theorem setRail_order (p : Pillar) (r : RailId) (x : Rail) : (p.setRail r x).order = p.order := by cases r <;> rfl
@[simp] theorem setRail_fitted (p : Pillar) (r : RailId) (x : Rail) : (p.setRail r x).fitted = p.fitted := by cases r <;> rfl
@[simp] theorem setRail_filters (p : Pillar) (r : RailId) (x : Rail) : (p.setRail r x).filters = p.filters := by cases r <;> rfl
@[simp] theorem setRail_heads (p : Pillar) (r : RailId) (x : Rail) : (p.setRail r x).heads = p.heads := by cases r <;> rfl
@[simp] theorem setRail_grants (p : Pillar) (r : RailId) (x : Rail) : (p.setRail r x).grants = p.grants := by cases r <;> rfl
@[simp] theorem setRail_lastGrant (p : Pillar) (r : RailId) (x : Rail) : (p.setRail r x).lastGrant = p.lastGrant := by cases r <;> rfl
@[simp] theorem setRail_suspended (p : Pillar) (r : RailId) (x : Rail) : (p.setRail r x).suspended = p.suspended := by cases r <;> rfl
@[simp] theorem setRail_spent (p : Pillar) (r : RailId) (x : Rail) : (p.setRail r x).spent = p.spent := by cases r <;> rfl
@[simp] theorem setRail_out (p : Pillar) (r : RailId) (x : Rail) : (p.setRail r x).out = p.out := by cases r <;> rfl
@[simp] theorem setRail_tx (p : Pillar) (r : RailId) (x : Rail) : (p.setRail r x).tx = p.tx := by cases r <;> rfl
@[simp] theorem setRail_records (p : Pillar) (r : RailId) (x : Rail) : (p.setRail r x).records = p.records := by cases r <;> rfl
@[simp] theorem setRail_overflow (p : Pillar) (r : RailId) (x : Rail) : (p.setRail r x).overflow = p.overflow := by cases r <;> rfl
@[simp] theorem setRail_attention (p : Pillar) (r : RailId) (x : Rail) : (p.setRail r x).attention = p.attention := by cases r <;> rfl

/-! ## The accessors read one field -/

@[simp] theorem setHead_dock (p : Pillar) (d : DockNo) (x : Head) (e : DockNo) : (p.setHead d x).dock e = p.dock e := rfl
@[simp] theorem setFilter_dock (p : Pillar) (d : DockNo) (x : Filter) (e : DockNo) : (p.setFilter d x).dock e = p.dock e := rfl
@[simp] theorem setGrant_dock (p : Pillar) (d : Fin 8) (x : Option Grant) (e : DockNo) : (p.setGrant d x).dock e = p.dock e := rfl
@[simp] theorem setRail_dock (p : Pillar) (r : RailId) (x : Rail) (e : DockNo) : (p.setRail r x).dock e = p.dock e := by cases r <;> rfl
@[simp] theorem setDock_head (p : Pillar) (d : DockNo) (x : Dock) (e : DockNo) : (p.setDock d x).head e = p.head e := rfl
@[simp] theorem setFilter_head (p : Pillar) (d : DockNo) (x : Filter) (e : DockNo) : (p.setFilter d x).head e = p.head e := rfl
@[simp] theorem setGrant_head (p : Pillar) (d : Fin 8) (x : Option Grant) (e : DockNo) : (p.setGrant d x).head e = p.head e := rfl
@[simp] theorem setRail_head (p : Pillar) (r : RailId) (x : Rail) (e : DockNo) : (p.setRail r x).head e = p.head e := by cases r <;> rfl
@[simp] theorem setDock_filter (p : Pillar) (d : DockNo) (x : Dock) (e : DockNo) : (p.setDock d x).filter e = p.filter e := rfl
@[simp] theorem setHead_filter (p : Pillar) (d : DockNo) (x : Head) (e : DockNo) : (p.setHead d x).filter e = p.filter e := rfl
@[simp] theorem setGrant_filter (p : Pillar) (d : Fin 8) (x : Option Grant) (e : DockNo) : (p.setGrant d x).filter e = p.filter e := rfl
@[simp] theorem setRail_filter (p : Pillar) (r : RailId) (x : Rail) (e : DockNo) : (p.setRail r x).filter e = p.filter e := by cases r <;> rfl
@[simp] theorem setDock_grant (p : Pillar) (d : DockNo) (x : Dock) (e : Fin 8) : (p.setDock d x).grant e = p.grant e := rfl
@[simp] theorem setHead_grant (p : Pillar) (d : DockNo) (x : Head) (e : Fin 8) : (p.setHead d x).grant e = p.grant e := rfl
@[simp] theorem setFilter_grant (p : Pillar) (d : DockNo) (x : Filter) (e : Fin 8) : (p.setFilter d x).grant e = p.grant e := rfl
@[simp] theorem setRail_grant (p : Pillar) (r : RailId) (x : Rail) (e : Fin 8) : (p.setRail r x).grant e = p.grant e := by cases r <;> rfl
@[simp] theorem setDock_rail (p : Pillar) (d : DockNo) (x : Dock) (r : RailId) : (p.setDock d x).rail r = p.rail r := by cases r <;> rfl
@[simp] theorem setHead_rail (p : Pillar) (d : DockNo) (x : Head) (r : RailId) : (p.setHead d x).rail r = p.rail r := by cases r <;> rfl
@[simp] theorem setFilter_rail (p : Pillar) (d : DockNo) (x : Filter) (r : RailId) : (p.setFilter d x).rail r = p.rail r := by cases r <;> rfl
@[simp] theorem setGrant_rail (p : Pillar) (d : Fin 8) (x : Option Grant) (r : RailId) : (p.setGrant d x).rail r = p.rail r := by cases r <;> rfl

/-! ## Updates of a field that an accessor does not read -/

@[simp] theorem dock_with_order (p : Pillar) (v : List DockNo) (e : DockNo) : ({ p with order := v } : Pillar).dock e = p.dock e := rfl
@[simp] theorem head_with_order (p : Pillar) (v : List DockNo) (e : DockNo) : ({ p with order := v } : Pillar).head e = p.head e := rfl
@[simp] theorem filter_with_order (p : Pillar) (v : List DockNo) (e : DockNo) : ({ p with order := v } : Pillar).filter e = p.filter e := rfl
@[simp] theorem grant_with_order (p : Pillar) (v : List DockNo) (e : Fin 8) : ({ p with order := v } : Pillar).grant e = p.grant e := rfl
@[simp] theorem rail_with_order (p : Pillar) (v : List DockNo) (r : RailId) : ({ p with order := v } : Pillar).rail r = p.rail r := by cases r <;> rfl
@[simp] theorem dock_with_fitted (p : Pillar) (v : BitVec 48) (e : DockNo) : ({ p with fitted := v } : Pillar).dock e = p.dock e := rfl
@[simp] theorem head_with_fitted (p : Pillar) (v : BitVec 48) (e : DockNo) : ({ p with fitted := v } : Pillar).head e = p.head e := rfl
@[simp] theorem filter_with_fitted (p : Pillar) (v : BitVec 48) (e : DockNo) : ({ p with fitted := v } : Pillar).filter e = p.filter e := rfl
@[simp] theorem grant_with_fitted (p : Pillar) (v : BitVec 48) (e : Fin 8) : ({ p with fitted := v } : Pillar).grant e = p.grant e := rfl
@[simp] theorem rail_with_fitted (p : Pillar) (v : BitVec 48) (r : RailId) : ({ p with fitted := v } : Pillar).rail r = p.rail r := by cases r <;> rfl
@[simp] theorem dock_with_suspended (p : Pillar) (v : Bool) (e : DockNo) : ({ p with suspended := v } : Pillar).dock e = p.dock e := rfl
@[simp] theorem head_with_suspended (p : Pillar) (v : Bool) (e : DockNo) : ({ p with suspended := v } : Pillar).head e = p.head e := rfl
@[simp] theorem filter_with_suspended (p : Pillar) (v : Bool) (e : DockNo) : ({ p with suspended := v } : Pillar).filter e = p.filter e := rfl
@[simp] theorem grant_with_suspended (p : Pillar) (v : Bool) (e : Fin 8) : ({ p with suspended := v } : Pillar).grant e = p.grant e := rfl
@[simp] theorem rail_with_suspended (p : Pillar) (v : Bool) (r : RailId) : ({ p with suspended := v } : Pillar).rail r = p.rail r := by cases r <;> rfl
@[simp] theorem dock_with_lastGrant (p : Pillar) (v : Nat) (e : DockNo) : ({ p with lastGrant := v } : Pillar).dock e = p.dock e := rfl
@[simp] theorem head_with_lastGrant (p : Pillar) (v : Nat) (e : DockNo) : ({ p with lastGrant := v } : Pillar).head e = p.head e := rfl
@[simp] theorem filter_with_lastGrant (p : Pillar) (v : Nat) (e : DockNo) : ({ p with lastGrant := v } : Pillar).filter e = p.filter e := rfl
@[simp] theorem grant_with_lastGrant (p : Pillar) (v : Nat) (e : Fin 8) : ({ p with lastGrant := v } : Pillar).grant e = p.grant e := rfl
@[simp] theorem rail_with_lastGrant (p : Pillar) (v : Nat) (r : RailId) : ({ p with lastGrant := v } : Pillar).rail r = p.rail r := by cases r <;> rfl
@[simp] theorem dock_with_spent (p : Pillar) (v : List SpentEntry) (e : DockNo) : ({ p with spent := v } : Pillar).dock e = p.dock e := rfl
@[simp] theorem head_with_spent (p : Pillar) (v : List SpentEntry) (e : DockNo) : ({ p with spent := v } : Pillar).head e = p.head e := rfl
@[simp] theorem filter_with_spent (p : Pillar) (v : List SpentEntry) (e : DockNo) : ({ p with spent := v } : Pillar).filter e = p.filter e := rfl
@[simp] theorem grant_with_spent (p : Pillar) (v : List SpentEntry) (e : Fin 8) : ({ p with spent := v } : Pillar).grant e = p.grant e := rfl
@[simp] theorem rail_with_spent (p : Pillar) (v : List SpentEntry) (r : RailId) : ({ p with spent := v } : Pillar).rail r = p.rail r := by cases r <;> rfl
@[simp] theorem dock_with_out (p : Pillar) (v : List OutFrame) (e : DockNo) : ({ p with out := v } : Pillar).dock e = p.dock e := rfl
@[simp] theorem head_with_out (p : Pillar) (v : List OutFrame) (e : DockNo) : ({ p with out := v } : Pillar).head e = p.head e := rfl
@[simp] theorem filter_with_out (p : Pillar) (v : List OutFrame) (e : DockNo) : ({ p with out := v } : Pillar).filter e = p.filter e := rfl
@[simp] theorem grant_with_out (p : Pillar) (v : List OutFrame) (e : Fin 8) : ({ p with out := v } : Pillar).grant e = p.grant e := rfl
@[simp] theorem rail_with_out (p : Pillar) (v : List OutFrame) (r : RailId) : ({ p with out := v } : Pillar).rail r = p.rail r := by cases r <;> rfl
@[simp] theorem dock_with_tx (p : Pillar) (v : Option SentFrame) (e : DockNo) : ({ p with tx := v } : Pillar).dock e = p.dock e := rfl
@[simp] theorem head_with_tx (p : Pillar) (v : Option SentFrame) (e : DockNo) : ({ p with tx := v } : Pillar).head e = p.head e := rfl
@[simp] theorem filter_with_tx (p : Pillar) (v : Option SentFrame) (e : DockNo) : ({ p with tx := v } : Pillar).filter e = p.filter e := rfl
@[simp] theorem grant_with_tx (p : Pillar) (v : Option SentFrame) (e : Fin 8) : ({ p with tx := v } : Pillar).grant e = p.grant e := rfl
@[simp] theorem rail_with_tx (p : Pillar) (v : Option SentFrame) (r : RailId) : ({ p with tx := v } : Pillar).rail r = p.rail r := by cases r <;> rfl
@[simp] theorem dock_with_records (p : Pillar) (v : List Record) (e : DockNo) : ({ p with records := v } : Pillar).dock e = p.dock e := rfl
@[simp] theorem head_with_records (p : Pillar) (v : List Record) (e : DockNo) : ({ p with records := v } : Pillar).head e = p.head e := rfl
@[simp] theorem filter_with_records (p : Pillar) (v : List Record) (e : DockNo) : ({ p with records := v } : Pillar).filter e = p.filter e := rfl
@[simp] theorem grant_with_records (p : Pillar) (v : List Record) (e : Fin 8) : ({ p with records := v } : Pillar).grant e = p.grant e := rfl
@[simp] theorem rail_with_records (p : Pillar) (v : List Record) (r : RailId) : ({ p with records := v } : Pillar).rail r = p.rail r := by cases r <;> rfl
@[simp] theorem dock_with_overflow (p : Pillar) (v : Bool) (e : DockNo) : ({ p with overflow := v } : Pillar).dock e = p.dock e := rfl
@[simp] theorem head_with_overflow (p : Pillar) (v : Bool) (e : DockNo) : ({ p with overflow := v } : Pillar).head e = p.head e := rfl
@[simp] theorem filter_with_overflow (p : Pillar) (v : Bool) (e : DockNo) : ({ p with overflow := v } : Pillar).filter e = p.filter e := rfl
@[simp] theorem grant_with_overflow (p : Pillar) (v : Bool) (e : Fin 8) : ({ p with overflow := v } : Pillar).grant e = p.grant e := rfl
@[simp] theorem rail_with_overflow (p : Pillar) (v : Bool) (r : RailId) : ({ p with overflow := v } : Pillar).rail r = p.rail r := by cases r <;> rfl
@[simp] theorem dock_with_attention (p : Pillar) (v : Bool) (e : DockNo) : ({ p with attention := v } : Pillar).dock e = p.dock e := rfl
@[simp] theorem head_with_attention (p : Pillar) (v : Bool) (e : DockNo) : ({ p with attention := v } : Pillar).head e = p.head e := rfl
@[simp] theorem filter_with_attention (p : Pillar) (v : Bool) (e : DockNo) : ({ p with attention := v } : Pillar).filter e = p.filter e := rfl
@[simp] theorem grant_with_attention (p : Pillar) (v : Bool) (e : Fin 8) : ({ p with attention := v } : Pillar).grant e = p.grant e := rfl
@[simp] theorem rail_with_attention (p : Pillar) (v : Bool) (r : RailId) : ({ p with attention := v } : Pillar).rail r = p.rail r := by cases r <;> rfl

/-! ## The state -/

@[simp] theorem event_pending (s : State) (f : Ctx → Pillar → Pillar) : (s.event f).pending = s.pending := by simp only [State.event]
@[simp] theorem event_store (s : State) (f : Ctx → Pillar → Pillar) : (s.event f).store = s.store := by simp only [State.event]
@[simp] theorem event_link (s : State) (f : Ctx → Pillar → Pillar) : (s.event f).link = s.link := by simp only [State.event]
@[simp] theorem event_clock (s : State) (f : Ctx → Pillar → Pillar) : (s.event f).clock = s.clock := by simp only [State.event]
@[simp] theorem event_tcu (s : State) (f : Ctx → Pillar → Pillar) : (s.event f).tcu = s.tcu := by simp only [State.event]
@[simp] theorem event_rider (s : State) (f : Ctx → Pillar → Pillar) : (s.event f).rider = s.rider := by simp only [State.event]
@[simp] theorem event_pillar (s : State) (f : Ctx → Pillar → Pillar) : (s.event f).pillar = s.pillar.event s.ctx (f s.ctx) := by simp only [State.event]
@[simp] theorem onPillar_pending (s : State) (f : Ctx → Pillar → Pillar) : (s.onPillar f).pending = s.pending := by simp only [State.onPillar]
@[simp] theorem onPillar_store (s : State) (f : Ctx → Pillar → Pillar) : (s.onPillar f).store = s.store := by simp only [State.onPillar]
@[simp] theorem onPillar_link (s : State) (f : Ctx → Pillar → Pillar) : (s.onPillar f).link = s.link := by simp only [State.onPillar]
@[simp] theorem onPillar_clock (s : State) (f : Ctx → Pillar → Pillar) : (s.onPillar f).clock = s.clock := by simp only [State.onPillar]
@[simp] theorem onPillar_tcu (s : State) (f : Ctx → Pillar → Pillar) : (s.onPillar f).tcu = s.tcu := by simp only [State.onPillar]
@[simp] theorem onPillar_rider (s : State) (f : Ctx → Pillar → Pillar) : (s.onPillar f).rider = s.rider := by simp only [State.onPillar]
@[simp] theorem onPillar_pillar (s : State) (f : Ctx → Pillar → Pillar) : (s.onPillar f).pillar = f s.ctx s.pillar := by simp only [State.onPillar]
@[simp] theorem served_pending (s : State) (resp : Response) : (s.served resp).pending = s.pending := rfl
@[simp] theorem served_store (s : State) (resp : Response) : (s.served resp).store = s.store := rfl
@[simp] theorem served_clock (s : State) (resp : Response) : (s.served resp).clock = s.clock := rfl
@[simp] theorem served_tcu (s : State) (resp : Response) : (s.served resp).tcu = s.tcu := rfl
@[simp] theorem served_rider (s : State) (resp : Response) : (s.served resp).rider = s.rider := rfl
@[simp] theorem served_pillar (s : State) (resp : Response) : (s.served resp).pillar = s.pillar := rfl
@[simp] theorem served_link (s : State) (resp : Response) : (s.served resp).link = s.link.served resp := rfl
@[simp] theorem setClock_store (s : State) (k : Clock) : (s.setClock k).store = s.store := by
  simp only [State.setClock]; split <;> rfl
@[simp] theorem setClock_link (s : State) (k : Clock) : (s.setClock k).link = s.link := by
  simp only [State.setClock]; split <;> rfl
@[simp] theorem setClock_rider (s : State) (k : Clock) : (s.setClock k).rider = s.rider := by
  simp only [State.setClock]; split <;> rfl
@[simp] theorem setClock_pending (s : State) (k : Clock) : (s.setClock k).pending = s.pending := by
  simp only [State.setClock]; split <;> rfl
@[simp] theorem setClock_clock (s : State) (k : Clock) : (s.setClock k).clock = k := by
  simp only [State.setClock]; split <;> rfl
@[simp] theorem setClock_tcu (s : State) (k : Clock) :
    (s.setClock k).tcu = { s.tcu with mark := restartMark s.clock k s.tcu.mark } := by
  simp only [State.setClock]; split <;> rfl

end Sys2Proof.Machine
end

