-- ==== Sys2Proof/Laws/Ops.lean ====
section
/-!
SUPPORT. One lemma for each shared operation, saying what it can do, so that a proof cites it and does not unfold the
operation: the source queues, the entry of records, the output queue, the events, and the requests of the station link.
-/

namespace Sys2Proof.Machine

/-! ## The source queues (R145 to R147) -/

/-- A message that serves another is for the same dock. -/
theorem Msg.serves_dock {waiting joining : Msg} (h : waiting.serves joining = true) : waiting.dock = joining.dock := by
  simp only [Msg.serves, Bool.and_eq_true, decide_eq_true_eq] at h
  exact h.1

/-- A message that has joined a queue waits in it. -/
theorem mem_joinTail_self (q : List Msg) (m : Msg) : m ∈ joinTail q m := by
  unfold joinTail
  split
  · rename_i h
    obtain ⟨o, ho, hs⟩ := List.any_eq_true.mp h
    exact List.mem_map.mpr ⟨o, ho, by simp [hs]⟩
  · simp

/-- What waits in a queue that a message has joined is that message or waited before. -/
theorem mem_joinTail {q : List Msg} {m o : Msg} (h : o ∈ joinTail q m) : o = m ∨ o ∈ q := by
  unfold joinTail at h
  split at h
  · obtain ⟨x, hx, rfl⟩ := List.mem_map.mp h
    split
    · exact .inl rfl
    · exact .inr hx
  · rcases List.mem_append.mp h with h | h
    · exact .inr h
    · exact .inl (List.mem_singleton.mp h)

/-- R145: a message that no waiting message serves joins the tail. -/
theorem joinTail_of_not_served {q : List Msg} {m : Msg} (h : ∀ o ∈ q, o.serves m = false) :
    joinTail q m = q ++ [m] := by
  unfold joinTail
  rw [if_neg]
  simpa [List.any_eq_true] using h

/-- R146: a RELEASE is served by no message that waits, so it joins the tail. -/
theorem joinTail_release (q : List Msg) (id : Nat) (d : DockNo) :
    joinTail q { cmd := .release id, dock := d } = q ++ [{ cmd := .release id, dock := d }] := by
  refine joinTail_of_not_served fun o _ => ?_
  cases h : o.cmd <;> simp [Msg.serves, h]

/-- R147: a message placed again stands at the head. -/
theorem head_joinHead (q : List Msg) (m : Msg) : (joinHead q m).head? = some m := rfl

/-- What waits in a queue after a message was placed again is that message or waited before. -/
theorem mem_joinHead {q : List Msg} {m o : Msg} (h : o ∈ joinHead q m) : o = m ∨ o ∈ q := by
  rcases List.mem_cons.mp h with h | h
  · exact .inl h
  · exact .inr (List.mem_of_mem_filter h)

/-- R147: a message waits after a withdrawal exactly when it waited before and does not satisfy the test. -/
theorem mem_withdraw (r : Rail) (test : Msg → Bool) (src : Source) (m : Msg) :
    m ∈ (r.withdraw test).queue src ↔ m ∈ r.queue src ∧ test m = false := by
  cases src <;> simp [Rail.withdraw, Rail.queue]

/-- A withdrawal leaves the channel as it is, and disowning leaves the queues as they are. -/
theorem withdraw_chan (r : Rail) (test : Msg → Bool) : (r.withdraw test).chan = r.chan := rfl

theorem disown_queue (r : Rail) (test : Msg → Bool) (src : Source) : (r.disown test).queue src = r.queue src := by
  unfold Rail.disown
  split
  · split <;> cases src <;> rfl
  · rfl

@[simp] theorem queue_setQueue_self (r : Rail) (src : Source) (q : List Msg) : (r.setQueue src q).queue src = q := by
  cases src <;> rfl

theorem queue_setQueue_ne (r : Rail) {src other : Source} (q : List Msg) (h : other ≠ src) :
    (r.setQueue src q).queue other = r.queue other := by
  cases src <;> cases other <;> first | rfl | exact absurd rfl h

@[simp] theorem setQueue_chan (r : Rail) (src : Source) (q : List Msg) : (r.setQueue src q).chan = r.chan := by
  cases src <;> rfl

/-- R145: the queue a message joins. -/
theorem join_queue (s : Source) (m : Msg) (p : Pillar) :
    ((p.join s m).rail (railOf m.dock)).queue s = joinTail ((p.rail (railOf m.dock)).queue s) m := by
  unfold Pillar.join Pillar.modRail
  simp

/-- R145: a message joins one queue of its own rail, and every other queue is as it was. -/
theorem join_queue_ne (s other : Source) (m : Msg) (p : Pillar) (r : RailId) (h : r ≠ railOf m.dock ∨ other ≠ s) :
    ((p.join s m).rail r).queue other = (p.rail r).queue other := by
  unfold Pillar.join Pillar.modRail
  by_cases hr : r = railOf m.dock
  · subst hr
    rw [setRail_rail, if_pos rfl]
    exact queue_setQueue_ne _ _ (h.resolve_left (fun k => k rfl))
  · rw [setRail_rail, if_neg (Ne.symm hr)]

/-- A message that joins a queue changes no table of the pillar. -/
theorem join_tables (s : Source) (m : Msg) (p : Pillar) :
    (p.join s m).docks = p.docks ∧ (p.join s m).order = p.order ∧ (p.join s m).fitted = p.fitted ∧
    (p.join s m).filters = p.filters ∧ (p.join s m).heads = p.heads ∧ (p.join s m).grants = p.grants ∧
    (p.join s m).spent = p.spent ∧ (p.join s m).records = p.records ∧ (p.join s m).out = p.out ∧
    (p.join s m).tx = p.tx := by
  unfold Pillar.join Pillar.modRail Pillar.setRail
  cases railOf m.dock <;> exact ⟨rfl, rfl, rfl, rfl, rfl, rfl, rfl, rfl, rfl, rfl⟩

/-! ## The Record Queue (R176 to R179) -/

/-- R177: a lesser record enters, with ATTENTION high, or is dropped with OVERFLOW set. -/
theorem lesser_cases (c : Ctx) (body : RecordBody) (p : Pillar) :
    (p.room = true ∧ p.lesser c body =
      { p with records := p.records ++ [{ time := c.stamp, body := body }], attention := true }) ∨
    (p.room = false ∧ p.lesser c body = { p with overflow := true }) := by
  unfold Pillar.lesser
  cases h : p.room
  · exact .inr ⟨rfl, rfl⟩
  · exact .inl ⟨rfl, rfl⟩

/-! ## The output queue (R166) -/

/-- R166: a transmission begins when none is in progress and a frame waits, and nothing happens otherwise. -/
theorem transmit_cases (c : Ctx) (p : Pillar) :
    (∃ f rest, p.tx = none ∧ p.out = f :: rest ∧ p.transmit c = { p with out := rest, tx := some (p.build c f) }) ∨
    ((p.tx.isSome = true ∨ p.out = []) ∧ p.transmit c = p) := by
  unfold Pillar.transmit
  cases ht : p.tx with
  | some x => exact .inr ⟨.inl rfl, by simp⟩
  | none =>
    cases ho : p.out with
    | nil => exact .inr ⟨.inr rfl, by simp⟩
    | cons f rest => exact .inl ⟨f, rest, rfl, rfl, rfl⟩

/-- R166: a final OUTCOME joins the tail when no OUTCOME MOVED with its ref waits. -/
theorem sendFinal_of_none {ref : Byte} {outcome : RiderOutcome} {dock : DockNo} {p : Pillar}
    (h : ∀ f ∈ p.out, f.isMoved ref = false) :
    p.sendFinal ref outcome dock = { p with out := p.out ++ [.outcome ref outcome dock] } := by
  unfold Pillar.sendFinal Pillar.send
  rw [if_neg]
  simpa [List.any_eq_true] using h

/-! ## Lamps and events (R57, R166) -/

/-- R57: what the lamp of one dock does after an event: nothing, or a LAMP in UPKEEP. -/
theorem relampDock_cases (before p : Pillar) (d : DockNo) :
    before.relampDock p d = p ∨
    ((p.dock d).state ≠ .silent ∧ (p.dock d).state ≠ .unfitted ∧
      ((before.dock d).state = .silent ∨ (before.dock d).pattern ≠ (p.dock d).pattern) ∧
      before.relampDock p d = p.join .upkeep { cmd := .lamp (p.dock d).pattern, dock := d }) := by
  unfold Pillar.relampDock
  dsimp only
  split
  · exact .inl rfl
  · split
    · rename_i h1 h2
      exact .inr ⟨fun h => h1 (.inl h), fun h => h1 (.inr h), h2, rfl⟩
    · exact .inl rfl

/-- An event that is not due changes nothing. -/
theorem eventIf_false (c : Ctx) (f : Pillar → Pillar) (p : Pillar) : p.eventIf c false f = p := by
  unfold Pillar.eventIf
  exact if_neg (by decide)

/-- An event that is due is taken. -/
theorem eventIf_true (c : Ctx) (f : Pillar → Pillar) (p : Pillar) : p.eventIf c true f = p.event c f := by
  unfold Pillar.eventIf
  exact if_pos rfl

/-! ## Requests (R169, R170) -/

/-- A command from outside the part always completes. -/
theorem external_next (f : State → State) (s : State) : external f s = .next (f s.settle) := rfl

/-- R169: a request that comes while the port is WORKING is discarded. -/
theorem takeRequest_working {s : State} {r : Request} (h : s.link.port = .working) : s.takeRequest r = s := by
  unfold State.takeRequest
  rw [if_pos h]

/-- R169, R170: a request that no check holds back is applied and answered in the step that takes it. -/
theorem takeRequest_accepts {s : State} {r : Request} (hp : s.link.port ≠ .working)
    (hc : heldKind r = false ∨ s.tcu.check = none) :
    s.takeRequest r = { s with link := s.link.take r }.serve r := by
  unfold State.takeRequest
  rw [if_neg hp]
  dsimp only
  rw [if_neg]
  rintro ⟨h1, h2⟩
  rcases hc with hc | hc
  · rw [hc] at h1
    exact Bool.noConfusion h1
  · rw [hc] at h2
    exact Bool.noConfusion h2

/-- R13: a request of the held kinds waits while a check is in flight. -/
theorem takeRequest_held {s : State} {r : Request} (hp : s.link.port ≠ .working) (hk : heldKind r = true)
    (hc : s.tcu.check.isSome = true) :
    s.takeRequest r = { s with link := s.link.take r, tcu := { s.tcu with held := some r } } := by
  unfold State.takeRequest
  rw [if_neg hp]
  dsimp only
  rw [if_pos ⟨hk, hc⟩]

/-- R169, R170: the port of a request taken and answered. -/
theorem take_answer (l : LinkPort) (r : Request) (resp : Response) : (l.take r).answer resp = l.served resp := rfl

/-! ## Frames (R125 to R127, R132) -/

/-- R132, R151: the beginning of a frame on one rail touches no table, no record and no output. -/
theorem beginFrame_tables (r : RailId) (p : Pillar) :
    (p.beginFrame r).docks = p.docks ∧ (p.beginFrame r).heads = p.heads ∧ (p.beginFrame r).filters = p.filters ∧
    (p.beginFrame r).grants = p.grants ∧ (p.beginFrame r).records = p.records ∧ (p.beginFrame r).out = p.out := by
  cases r <;> simp [Pillar.beginFrame, Pillar.modRail, Pillar.setRail]

/-- R125 to R127: what scheduling can do: it moves the pointer, the priority pair and the scan of its rail, and then the
frame begins. -/
theorem schedule_cases (r : RailId) (p : Pillar) :
    ∃ pointer pair scan,
      p.schedule r = (p.setRail r { p.rail r with pointer := pointer, pair := pair, scan := scan }).beginFrame r := by
  unfold Pillar.schedule Pillar.scheduleRoundRobin
  dsimp only
  repeat' split
  all_goals exact ⟨_, _, _, rfl⟩

/-! ## Timers (R23) -/

/-- A running timer loses one ms tick, and one that is stopped or at 0 stays. -/
theorem countDown_cases (t : Option Nat) : countDown t = t ∨ ∃ n, t = some (n + 1) ∧ countDown t = some n := by
  match t with
  | none => exact .inl rfl
  | some 0 => exact .inl rfl
  | some (n + 1) => exact .inr ⟨n, rfl, rfl⟩

end Sys2Proof.Machine
end

