-- ==== Sys2Proof/Laws/PerInstr.lean ====
section
/-!
SUPPORT. Statements made of every command, one lemma for each constructor of Instr.

`RowRequest`: the request that a row of the command catalogue stands for falls under that row alone, so that a frame read
from the station link is exactly one row.
-/

namespace Sys2Proof.Laws.RowRequest

open Sys2Proof.Machine

/-- spec/13_formats.md, R169: the request of a row belongs to that row. -/
def Statement (i : Instr) : Prop := ∀ r, commandRequest i = some r → requestRow r = some i

theorem reset (cause : ResetCause) : Statement (.reset cause) := by
  rintro r ⟨⟩

theorem msTick (a b : Upstream) : Statement (.msTick a b) := by
  rintro r ⟨⟩

theorem absenceExpiry : Statement (.absenceExpiry) := by
  rintro r ⟨⟩

theorem growthStep : Statement (.growthStep) := by
  rintro r ⟨⟩

theorem alignedSetExpiry : Statement (.alignedSetExpiry) := by
  rintro r ⟨⟩

theorem refpulse (cycles : Nat) : Statement (.refpulse cycles) := by
  rintro r ⟨⟩

theorem linkSilenceExpiry : Statement (.linkSilenceExpiry) := by
  rintro r ⟨⟩

theorem writeSelectionInvalid (bytes : List Byte) : Statement (.writeSelectionInvalid bytes) := by
  rintro r ⟨⟩

theorem readSelection (clocked : Nat) : Statement (.readSelection clocked) := by
  rintro r ⟨⟩

theorem status : Statement (.status) := by
  rintro r ⟨⟩
  rfl

theorem readDock (dock : Byte) : Statement (.readDock dock) := by
  rintro r ⟨⟩
  rfl

theorem readRecords (count : Byte) : Statement (.readRecords count) := by
  rintro r ⟨⟩
  rfl

theorem setTimeImmediate (seconds : Word) (force : Byte) : Statement (.setTimeImmediate seconds force) := by
  rintro r ⟨⟩
  rfl

theorem setTimeAligned (seconds : Word) (force : Byte) : Statement (.setTimeAligned seconds force) := by
  rintro r ⟨⟩
  rfl

theorem keyLoad (slot epoch : Byte) (key : BitVec 128) : Statement (.keyLoad slot epoch key) := by
  rintro r ⟨⟩
  rfl

theorem keyDrop (slot : Byte) : Statement (.keyDrop slot) := by
  rintro r ⟨⟩
  rfl

theorem denyAdd (count : Byte) (ids : List Word) : Statement (.denyAdd count ids) := by
  rintro r ⟨⟩
  rfl

theorem denyRemove (account : Word) : Statement (.denyRemove account) := by
  rintro r ⟨⟩
  rfl

theorem denyClear : Statement (.denyClear) := by
  rintro r ⟨⟩
  rfl

theorem heldRequestApply : Statement (.heldRequestApply) := by
  rintro r ⟨⟩

theorem holdSetReserve (dock id : Byte) (expiry : Word) : Statement (.holdSetReserve dock id expiry) := by
  rintro r ⟨⟩
  rfl

theorem holdSetService (dock : Byte) : Statement (.holdSetService dock) := by
  rintro r ⟨⟩
  rfl

theorem holdClear (dock : Byte) : Statement (.holdClear dock) := by
  rintro r ⟨⟩
  rfl

theorem bikeCondition (dock condition : Byte) : Statement (.bikeCondition dock condition) := by
  rintro r ⟨⟩
  rfl

theorem lampDirect (dock pattern : Byte) : Statement (.lampDirect dock pattern) := by
  rintro r ⟨⟩
  rfl

theorem lampAuto (dock : Byte) : Statement (.lampAuto dock) := by
  rintro r ⟨⟩
  rfl

theorem clearFault (dock : Byte) : Statement (.clearFault dock) := by
  rintro r ⟨⟩
  rfl

theorem staffRelease (dock : Byte) : Statement (.staffRelease dock) := by
  rintro r ⟨⟩
  rfl

theorem abortGrant (grant : Byte) : Statement (.abortGrant grant) := by
  rintro r ⟨⟩
  rfl

theorem suspend : Statement (.suspend) := by
  rintro r ⟨⟩
  rfl

theorem resume : Statement (.resume) := by
  rintro r ⟨⟩
  rfl

theorem railTrain (rail : Byte) : Statement (.railTrain rail) := by
  rintro r ⟨⟩
  rfl

theorem settingWrite (setting dock : Byte) (value : BitVec 48) : Statement (.settingWrite setting dock value) := by
  rintro r ⟨⟩
  rfl

theorem settingRead (setting dock : Byte) : Statement (.settingRead setting dock) := by
  rintro r ⟨⟩
  rfl

theorem storeSettings : Statement (.storeSettings) := by
  rintro r ⟨⟩
  rfl

theorem storeComplete : Statement (.storeComplete) := by
  rintro r ⟨⟩

theorem restoreFactory : Statement (.restoreFactory) := by
  rintro r ⟨⟩
  rfl

theorem serviceEnter : Statement (.serviceEnter) := by
  rintro r ⟨⟩
  rfl

theorem serviceLeave : Statement (.serviceLeave) := by
  rintro r ⟨⟩
  rfl

theorem present (ref : Byte) (token : Token) : Statement (.present ref token) := by
  rintro r ⟨⟩

theorem cancel (ref : Byte) : Statement (.cancel ref) := by
  rintro r ⟨⟩

theorem query : Statement (.query) := by
  rintro r ⟨⟩

theorem riderGapTimeout : Statement (.riderGapTimeout) := by
  rintro r ⟨⟩

theorem transmitComplete : Statement (.transmitComplete) := by
  rintro r ⟨⟩

theorem takePresentation : Statement (.takePresentation) := by
  rintro r ⟨⟩

theorem verificationEnd : Statement (.verificationEnd) := by
  rintro r ⟨⟩

theorem heldCancelApply : Statement (.heldCancelApply) := by
  rintro r ⟨⟩

theorem baselineRise (dock : DockNo) : Statement (.baselineRise dock) := by
  rintro r ⟨⟩

theorem baselineReset (dock : DockNo) : Statement (.baselineReset dock) := by
  rintro r ⟨⟩

theorem channelTimeout (rail : RailId) : Statement (.channelTimeout rail) := by
  rintro r ⟨⟩

theorem closingTimeout (rail : RailId) : Statement (.closingTimeout rail) := by
  rintro r ⟨⟩

theorem controllerAbort (rail : RailId) : Statement (.controllerAbort rail) := by
  rintro r ⟨⟩

theorem channelOutcome (rail : RailId) : Statement (.channelOutcome rail) := by
  rintro r ⟨⟩

theorem quietCountRestore (rail : RailId) : Statement (.quietCountRestore rail) := by
  rintro r ⟨⟩

theorem arbiterHandoff (rail : RailId) : Statement (.arbiterHandoff rail) := by
  rintro r ⟨⟩

theorem silentReport (dock : DockNo) : Statement (.silentReport dock) := by
  rintro r ⟨⟩

theorem firstCodeEvent (dock : DockNo) : Statement (.firstCodeEvent dock) := by
  rintro r ⟨⟩

theorem changeEvent (dock : DockNo) : Statement (.changeEvent dock) := by
  rintro r ⟨⟩

theorem presentEvent (dock : DockNo) : Statement (.presentEvent dock) := by
  rintro r ⟨⟩

theorem absentEvent (dock : DockNo) : Statement (.absentEvent dock) := by
  rintro r ⟨⟩

theorem poorDock (dock : DockNo) : Statement (.poorDock dock) := by
  rintro r ⟨⟩

theorem grantlessRelockDeadline (dock : DockNo) : Statement (.grantlessRelockDeadline dock) := by
  rintro r ⟨⟩

theorem grantConfirmExpiry (grant : Byte) : Statement (.grantConfirmExpiry grant) := by
  rintro r ⟨⟩

theorem pullDeadlineExpiry (grant : Byte) : Statement (.pullDeadlineExpiry grant) := by
  rintro r ⟨⟩

theorem relockDeadlineExpiry (grant : Byte) : Statement (.relockDeadlineExpiry grant) := by
  rintro r ⟨⟩

theorem trainDeadlineExpiry (rail : RailId) : Statement (.trainDeadlineExpiry rail) := by
  rintro r ⟨⟩

theorem sweepEnd (rail : RailId) : Statement (.sweepEnd rail) := by
  rintro r ⟨⟩

theorem riderByteReceived (byte : Byte) (stopBit : Bool) : Statement (.riderByteReceived byte stopBit) := by
  rintro r ⟨⟩

end Sys2Proof.Laws.RowRequest
end

