-- ==== Sys2Proof/Tests/Slice0.lean ====
section
/-!
SUPPORT. Tests: the ill-formed commands that WellFormed refuses, examples whose results the spec states, and for each
obligation with hypotheses a concrete state that meets them (`witness_<obligation>`, one clause or more to a theorem).
-/

namespace Sys2Proof.Tests

open Sys2Proof Sys2Proof.Machine

-- One thread at a time: the kernel evaluates every theorem below, and each thread would ask for a stack of its own.
set_option Elab.async false

/-! ## Small states -/

/-- A property of what an Option may hold, from a test of it. -/
theorem forall_some {α : Type} {P : α → Prop} {o : Option α} [DecidablePred P] (h : o.all (fun a => decide (P a)) = true) :
    ∀ a, o = some a → P a := by
  intro a ha
  subst ha
  simpa using h

/-- What a command answers, as a state; State.reset stands for a fault or a refusal, which no command answers. -/
def after (c : Instr) (s : State) : State :=
  match exec c s with
  | .next t => t
  | _ => State.reset

/-- Whether a command answers a next state that satisfies a test. -/
def answers (c : Instr) (s : State) (test : State → Bool) : Bool :=
  match exec c s with
  | .next t => test t
  | _ => false

def withDock (d : DockNo) (x : Dock) (s : State) : State := { s with pillar := s.pillar.setDock d x }

def withHead (d : DockNo) (x : Head) (s : State) : State := { s with pillar := s.pillar.setHead d x }

def withFilter (d : DockNo) (x : Filter) (s : State) : State := { s with pillar := s.pillar.setFilter d x }

def withGrant (i : Fin 8) (g : Grant) (s : State) : State := { s with pillar := s.pillar.setGrant i (some g) }

def withRail (r : RailId) (f : Rail → Rail) (s : State) : State := { s with pillar := s.pillar.modRail r f }

/-- The first round-robin scan of a rail (R127), read at the delay of its head. -/
def scheduled (r : Rail) : Rail :=
  { r with frameDue := false, pointer := 1, scan := { addr := 1, kind := .roundRobin }, scanDelay := 8 }

/-- The part after reset, with its first frames scheduled, so that nothing is due. -/
def fresh : State :=
  { State.reset with
    pillar := { State.reset.pillar with railA := scheduled State.reset.pillar.railA, railB := scheduled State.reset.pillar.railB } }

/-- A part whose clock was set to a second and a millisecond. -/
def labelled (sec ms : Nat) : State :=
  { fresh with
    clock := { fresh.clock with
      labelled := true, sec := sec, ms := ms, state := .free, high := sec * 1000 + ms, unc := 500, labelUnc := 500 } }

/-- A dock that holds a STANDARD bike. -/
def held : Dock := { Dock.fresh .docked with bike := some { tag := some 0x21AB000000000000#64, cls := .standard, condition := .ok } }

/-- A head whose confirmed code is known. -/
def seen (code : Code) : Head :=
  { confirmed := some code, candidate := none, missed := 0, delay := 8, lastTraining := .none, stray := false }

/-- A rider grant in a phase on dock 1. -/
def riderGrant (phase : Phase) (timer : Option Nat) : Grant :=
  { Grant.create 71 0 (some { ref := 4#8, account := 4410#32, serial := 600101#32, bikeClass := 0#8 }) with
    phase := phase, timer := timer }

/-- Dock 1 under that grant. -/
def granted (st : DockState) (phase : Phase) (timer : Option Nat) (s : State) : State :=
  let s := withDock 0 { held with state := st, grant := some 71 } (withGrant 0 (riderGrant phase timer) s)
  { s with pillar := { s.pillar with
    order := [0], lastGrant := 71, spent := [{ serial := 600101#32, notAfter := 900, grant := some 71 }] } }

/-- Nothing driven on a rail. -/
def noReply : Upstream :=
  { reply := 0#8, take := false, channelWindow := 0#32, scan := none, scanWindow := 0#32, attention := 0#8 }

/-- The scanned head answers with a status byte and a raw count, readable at every delay. -/
def reply (status : Byte) (count : Half) : Upstream :=
  { noReply with scan := some { status := status, count := count }, scanWindow := 0xFFFFFFFF#32 }

/-! ## WellFormed refuses what the connections cannot carry -/

theorem test_wf_attention : wellFormed (.msTick { noReply with attention := 25#8 } noReply) = false := by decide
theorem test_wf_attention_highest : wellFormed (.msTick { noReply with attention := 24#8 } noReply) = true := by decide
theorem test_wf_pulse_too_late : wellFormed (.refpulse 4137) = false := by decide
theorem test_wf_pulse_latest : wellFormed (.refpulse 4136) = true := by decide
theorem test_wf_write_selection_empty : wellFormed (.writeSelectionInvalid []) = false := by decide
theorem test_wf_write_selection_is_read : wellFormed (.writeSelectionInvalid [0xC3#8, 0#8]) = false := by decide
theorem test_wf_deny_add_count : wellFormed (.denyAdd 2#8 [1#32]) = false := by decide
theorem test_wf_deny_add_too_long : wellFormed (.denyAdd 20#8 (List.replicate 20 1#32)) = false := by decide
theorem test_wf_grant_id_zero :
    wellFormed (.grantConfirmExpiry 0#8) = false ∧ wellFormed (.pullDeadlineExpiry 0#8) = false ∧
    wellFormed (.relockDeadlineExpiry 0#8) = false := by decide

/-- No row of the opcode table gives bits, so that no word spells a command. -/
theorem test_decode_none : decodeTableWord 8 0x5A = none ∧ decodeTableWord 0 0 = none := by decide

/-! ## Examples the spec works out -/

/-- spec/13_formats.md, R187: the frames of CANCEL 23, of QUERY and of STATUS. -/
theorem test_frame_cancel : riderFrame [0x02#8, 23#8] = [0xA5#8, 0x02#8, 0x02#8, 0x17#8, 0xE5#8] := by decide
theorem test_frame_query : riderFrame [0x03#8] = [0xA5#8, 0x01#8, 0x03#8, 0xFC#8] := by decide
theorem test_frame_status : requestSelection .status = [0x3C#8, 0x00#8, 0x01#8, 0x01#8, 0xFE#8] := by decide

/-- R188: the messages of a RELEASE and of a LAMP FAST, and the check byte of a tag. -/
theorem test_message_release : (Cmd.release 1).bytes = [0x31#8, 0x00#8, 0x8B#8] := by decide
theorem test_message_lamp : (Cmd.lamp .fast).bytes = [0x33#8, 0x03#8, 0x90#8] := by decide
theorem test_tag_check : tagCheck [0x21#8, 0#8, 0#8, 0#8, 0#8, 0#8, 0#8, 0#8] = 0xDE#8 := by decide

/-- spec/02, Worked case: trim, phase and the window. -/
theorem test_trim_small_step : trimUpdate 1048576 4096410 = 1048681 := by decide
theorem test_trim_clamped_step : trimUpdate 1048576 4120000 = 1049088 := by decide
theorem test_phase_early_pulse :
    answers (.refpulse 1000)
      { labelled 86411 997 with
        clock := { (labelled 86411 997).clock with labelUnc := 0, unc := 0, pulse := some 4095410 } }
      (fun t => t.clock.sec = 86412 && t.clock.ms = 0 && t.clock.unc = 4 && t.clock.trim = 1048681) = true := by
  decide +kernel
theorem test_window_closed : Clock.expired { (labelled 86412 250).clock with unc := 4 } 86410 = true := by decide +kernel
theorem test_window_in_holdover :
    Clock.expired { (labelled 86412 250).clock with unc := 1304 } 86410 = false ∧
    Clock.early { (labelled 86412 250).clock with unc := 1304 } 86300 = false := by decide +kernel

/-- spec/02, Example: backward steps, at S = 52,100, m = 400. -/
theorem test_set_forward :
    answers (.setTimeImmediate 52130#32 0#8) (labelled 52100 400)
      (fun t => t.clock.sec = 52130 && t.clock.high = 52130000) = true := by decide +kernel
theorem test_set_backward_by_two :
    answers (.setTimeImmediate 52098#32 0#8) (labelled 52100 400)
      (fun t => t.clock.sec = 52098 && t.clock.high = 52100400) = true := by decide +kernel
theorem test_set_backward_refused :
    answers (.setTimeAligned 52097#32 0#8) (labelled 52100 400)
      (fun t => t.clock = (labelled 52100 400).clock && t.link.response = some (.refuse .timeBackward)) = true := by
  decide +kernel
theorem test_set_backward_forced :
    answers (.setTimeAligned 52097#32 1#8) (labelled 52100 400)
      (fun t => t.clock.aligned = some { seconds := 52097, forcedBack := true, expiry := 0 } && t.clock.sec = 52100) =
      true := by decide +kernel

/-- spec/02, Worked sequence: the aligned set at the pulse with E = 1,620. -/
theorem test_aligned_at_pulse :
    answers (.refpulse 410)
      { fresh with
        clock := { fresh.clock with
          ticks := 1620
          pulse := some 4096000
          aligned := some { seconds := 52000, forcedBack := false, expiry := 220 } } }
      (fun t => t.clock.sec = 52000 && t.clock.unc = 1 && t.clock.k = 1 && t.clock.state = .locking &&
        t.tcu.mark = 51999 && t.clock.high = 52000000) = true := by decide +kernel

/-- spec/01, Example: tokens after a restart. -/
theorem test_restart_mark :
    answers (.setTimeImmediate 90000#32 0#8) { fresh with clock := { fresh.clock with ticks := 41250 } }
      (fun t => t.tcu.mark = 89959 && t.clock.unc = 500 && t.clock.labelUnc = 500) = true := by decide +kernel

/-- spec/02, Worked sequence: the absence expiry of a LOCKED clock. -/
theorem test_absence_expiry :
    answers .absenceExpiry
      { fresh with
        clock := { (labelled 52006 0).clock with
          k := 4, lockedMark := true, state := .locked, unc := 2, growth := 7, absence := 3000 } }
      (fun t => t.clock.state = .holdover && t.clock.k = 0 && t.clock.unc = 2 && t.clock.growth = 0 &&
        t.pillar.records.getLast? = some { time := some 52006, body := .clock .holdover }) = true := by decide +kernel

/-! ## The Presence Filter's examples (spec/06) -/

/-- The record of dock 8 in the example of a drift. -/
def drifting : Filter := { Filter.fresh with initialised := true, base := 1200, bucket := 90 }

theorem test_filter_bucket_fills :
    ((drifting.update Settings.factory 1215).bucket = 105 ∧ (drifting.update Settings.factory 1215).riseDue Settings.factory) ∧
    (drifting.update Settings.factory 1215).rise.base = 1201 ∧ (drifting.update Settings.factory 1215).rise.bucket = 0 := by
  decide
theorem test_filter_turns_present :
    Filter.update Settings.factory 1706 { drifting with base := 1201, bucket := 0, onRun := 2 } =
      { drifting with base := 1201, bucket := 0, onRun := 0, present := true, lastRaw := some 1706 } := by decide
theorem test_filter_turns_absent :
    Filter.update Settings.factory 1198 { drifting with base := 1201, bucket := 43, offRun := 2, present := true } =
      { drifting with base := 1200, bucket := 43, offRun := 0, present := false, lastRaw := some 1198 } := by decide
theorem test_filter_hysteresis :
    (Filter.update Settings.factory 1551 { drifting with base := 1201, bucket := 0, present := true }).offRun = 0 := by decide
theorem test_filter_seed : (Filter.seed Settings.factory .restHeld 1850).base = 1250 ∧
    (Filter.seed Settings.factory .restHeld 1850).present = true := by decide
theorem test_filter_low_reset :
    answers (.baselineReset 21)
      (withFilter 21 { drifting with base := 1480, bucket := 0, lowRun := 20, lastRaw := some 1195 } fresh)
      (fun t => (t.pillar.filter 21).base = 1195 && (t.pillar.filter 21).lowRun = 0) = true := by decide +kernel

/-! ## The rails' examples (spec/07, spec/08) -/

/-- The byte of frame 2 of the example of a RELEASE has been seen with TAKE inactive; frame 3 acknowledges it. -/
theorem test_channel_first_byte :
    let ch := { Channel.carry .rider { cmd := .release 71, dock := 6 } with timeout := 2, offerTake := some false }
    (ch.frameEnd 25 true 0x31#8).state = .gap ∧ (ch.frameEnd 25 true 0x31#8).pos = 2 ∧
    (ch.frameEnd 25 true 0x30#8).outcome = some .echoError := by decide
theorem test_channel_last_byte :
    let ch := { Channel.carry .rider { cmd := .release 71, dock := 6 } with
      state := .offer, pos := 3, timeout := 2, offerTake := some false, dropped := true }
    (ch.frameEnd 25 true 0x8B#8).outcome = some .done ∧ (ch.frameEnd 25 true 0x8B#8).state = .ending := by decide
theorem test_channel_no_dip :
    let ch := { Channel.carry .rider { cmd := .release 71, dock := 6 } with
      state := .offer, pos := 2, timeout := 0, offerTake := none }
    (ch.frameEnd 25 true 0x00#8).state = .offer ∧ (ch.frameEnd 25 true 0x00#8).timeout = 1 := by decide
theorem test_training_run : goodRun 0x0800FFC0#32 = some (6, 15) := by decide +kernel
theorem test_training_no_run : goodRun 0#32 = none := by decide

/-! ## Grants, records and tokens -/

/-- spec/12, Step 1: the walk passes over a dock with a hold. -/
theorem test_walk_passes_over_holds :
    (withDock 4 { held with hold := some (.reserve 8#8 30900) }
      (withDock 1 { held with bike := some { tag := some 0x9E00000000000000#64, cls := .assisted, condition := .ok } }
        { fresh with pillar := { fresh.pillar with order := [4, 1, 8] } })).pillar.walk 0#8 = some 1 := by decide +kernel

/-- spec/12, Step 1: the entry with the smaller not-after stands first; R10: after an equal one. -/
theorem test_spent_order :
    insertSpent { serial := 600101#32, notAfter := 30399, grant := some 71 } [{ serial := 600002#32, notAfter := 30450, grant := none }] =
      [{ serial := 600101#32, notAfter := 30399, grant := some 71 }, { serial := 600002#32, notAfter := 30450, grant := none }] ∧
    (insertSpent { serial := 1#32, notAfter := 5, grant := none } [{ serial := 2#32, notAfter := 5, grant := none }]).map
      SpentEntry.serial = [2#32, 1#32] := by decide

/-- R63: the counter changes from 255 to 1 and passes over an id in use. -/
theorem test_grant_id_wraps : nextId (fun id => id = 1) 8 255 = 2 := by decide

/-- spec/10, Example: draining a full queue. -/
theorem test_read_records_enters_owed :
    answers (.readRecords 8#8)
      (withDock 11 { held with owed := some { tag := none, notSensed := false, intoService := false } }
        { fresh with pillar := { fresh.pillar with
            records := List.replicate 61 { time := none, body := .poorDock 0 }, overflow := true } })
      (fun t => t.pillar.records.length = 54 && t.pillar.overflow && t.pillar.attention &&
        (t.link.response.map (fun r => r.body.take 3)) = some [8#8, 1#8, 54#8] &&
        ((t.pillar.dock 11).owed = none)) = true := by decide +kernel

/-- R53, spec/10: HOLD_SET RESERVE on a dock still SILENT is refused BAD_STATE. -/
theorem test_reserve_silent :
    answers (.holdSetReserve 1#8 5#8 100#32) (labelled 50 0) (fun t => t.link.response = some (.refuse .badState)) = true := by
  decide +kernel

/-- R170: a read selection while no response waits clocks out zeros. -/
theorem test_read_nothing :
    answers (.readSelection 3) fresh (fun t => t.link.clockedOut = [0#8, 0#8, 0#8] && t.link.port = .idle) = true := by
  decide +kernel

/-- R177: a lesser record is dropped at the reserve, and OVERFLOW is set. -/
theorem test_lesser_dropped :
    let p := { fresh.pillar with records := List.replicate 64 { time := none, body := .poorDock 0 } }
    (p.lesser fresh.ctx (.poorDock 1)).records.length = 64 ∧ (p.lesser fresh.ctx (.poorDock 1)).overflow = true := by
  decide +kernel

/-- spec/04, Example: a cancel while the release is in the channel: the abort is asked for, and the grant goes on. -/
theorem test_cancel_in_sending :
    answers (.cancel 4#8)
      (withRail .a (fun r => { r with chan := Channel.carry .rider { cmd := .release 71, dock := 0 } })
        (granted .releasing .sending none fresh))
      (fun t => t.pillar.railA.chan.abort = .asked &&
        ((t.pillar.grant 0).map (fun g => (g.phase, g.cancelPending)) = some (.sending, true))) = true := by
  decide +kernel

/-- spec/04, Example: a jam before the latch opens on the only eligible dock: no grant is moved, and it ends FAILED. -/
theorem test_jam_ends_the_grant :
    answers (.changeEvent 0)
      (withRail .a (fun r => { r with codeDue := some (0, false) })
        (withHead 0 (seen .jammed) (granted .releasing .confirming (some 300) fresh)))
      (fun t => (t.pillar.dock 0).state = .fault && (t.pillar.grant 0).isNone &&
        t.pillar.records.length = 3) = true := by decide +kernel

/-- R108, R119 with spec/13_formats.md: present is the first value listed of the flag, and so its byte is 0. -/
theorem test_present_flag_byte :
    { Filter.fresh with initialised := true, present := true }.bytes.getD 7 9#8 = 0#8 ∧ Filter.fresh.bytes.getD 7 9#8 = 1#8 := by
  decide

/-- R132: a delay written within a frame is used from the next frame that reads the head. -/
theorem test_delay_written_within_a_frame :
    answers (.msTick { reply 2#8 900#16 with scanWindow := 0x100#32 } noReply)
      (withHead 0 { fresh.pillar.head 0 with delay := 20 } fresh)
      (fun t => (t.pillar.head 0).candidate = some .restHeld && (t.pillar.railA.scanDelay = 8)) = true := by decide +kernel

/-- R140: an abort asked for within a frame whose judgement decides the outcome decides nothing. -/
theorem test_abort_after_the_last_byte :
    let ch := { Channel.carry .rider { cmd := .release 71, dock := 0 } with
      state := .offer, pos := 3, offerTake := some false, abort := .asked }
    (ch.frameEnd 200 true ch.byte).outcome = some .done ∧ (ch.frameEnd 200 true ch.byte).abort = .none := by decide +kernel

/-! ## States that meet the hypotheses of the obligations -/

/-- A state with one command in its queue. -/
def queued (c : Instr) (s : State) : State := { s with pending := [c] }

/-- A request of the held kinds waits while a check is in flight. -/
def aToken : Token :=
  { format := 1#8, epoch := 3#8, group := 0xFFFF#16, account := 4410#32, serial := 600101#32, notBefore := 50#32,
    notAfter := 600#32, flags := 1#8, dock := 0#8, bikeClass := 0#8, ticket := 0#8, tag := 0#32 }

def checking (t : Token) (s : State) : State :=
  { s with tcu := { s.tcu with check := some { pres := { ref := 4#8, token := t }, refInUse := false, ticks := 0 } } }

def working : State :=
  { fresh with
    link := fresh.link.take (.keyDrop 1#8)
    tcu := { (checking aToken fresh).tcu with held := some (.keyDrop 1#8) } }

/-- A response waits. -/
def answered : State := fresh.served .ok

theorem witness_StepTakesTheFrontCommand :
    (queued .status fresh).pending = .status :: [] ∧ State.reset.pending = [] := by decide +kernel

/-- No word is its own inverse, so that the check word a store leaves is not good (R182). -/
theorem not_self (x : Word) : ~~~ x ≠ x := by
  intro h
  have h0 := congrArg (fun w => w.getLsbD 0) h
  simp at h0

/-- An image as a store captures it is under its good check word; the check word that a store in progress leaves is not
good. -/
theorem witness_BoardResetStartsThePart :
    (∀ s : State, s.capture.check = s.capture.computed) ∧
    ∀ i : Image, { i with check := ~~~ i.computed }.check ≠ Image.computed { i with check := ~~~ i.computed } :=
  ⟨fun _ => rfl, fun i => not_self i.computed⟩

theorem witness_NothingDue_quiet : fresh.quiet := by
  have none : ∀ i, fresh.pillar.grant i = none := by decide +kernel
  unfold State.quiet
  have grants : ∀ i g, fresh.pillar.grant i = some g → fresh.pillar.quietGrant g.id = true := fun i g h => by
    rw [none i] at h
    cases h
  have rails : ∀ r, fresh.pillar.quietRail r = true := by
    intro r
    cases r <;> decide +kernel
  repeat' refine And.intro (by first | exact rails | decide +kernel) ?_
  exact grants

theorem witness_NothingDue_rows :
    fresh.pillar.silentDue 0 = false ∧ fresh.pillar.codeDue 47 true = false ∧ fresh.pillar.codeDue 47 false = false ∧
    fresh.pillar.presenceDue 23 true = false ∧ fresh.pillar.presenceDue 24 false = false ∧
    fresh.pillar.poorDue 0 = false ∧ fresh.pillar.outcomeDue .a = false ∧ fresh.pillar.arbiterDue .b = false ∧
    fresh.clock.growthDue = false ∧ fresh.link.silenceDue = false := by decide +kernel

/-- The bounds of the counts and deadlines, one below what is due, and the grant that is not there. -/
theorem witness_NothingDue_counts :
    { fresh.clock with k := 4, absence := 2999 }.absence < 3000 ∧ fresh.clock.k = 0 ∧
    { seconds := 9, forcedBack := false, expiry := 1999 : AlignedSet }.expiry < 2000 ∧ fresh.rider.state = .hunt ∧
    { fresh.rider with state := .body, gap := 20 }.gap < 21 ∧ (checking aToken fresh).tcu.check.isSome = true ∧
    fresh.tcu.heldCancel = none ∧ fresh.tcu.held = none ∧ (fresh.pillar.filter 0).initialised = false ∧
    { Filter.fresh with initialised := true, bucket := 99 }.bucket < fresh.store.work.bucket ∧
    { Filter.fresh with initialised := true, lowRun := 19 }.lowRun < fresh.store.work.lowResetScans ∧
    { attempt := 3, deadline := some 1 : Relock }.deadline ≠ some 0 ∧ (fresh.pillar.rail .a).chan.due = .none ∧
    (fresh.pillar.rail .a).chan.abort = .none ∧ (fresh.pillar.rail .a).restoreDue = false ∧
    (fresh.pillar.rail .b).training = none ∧ { Training.start 0 with step := .sweep, scans := 63 }.scans < 64 ∧
    (riderGrant .open (some 1)).timer ≠ some 0 ∧ (riderGrant .queued none).id ≠ (1#8).toNat := by decide +kernel

/-- A dock that turns from EMPTY to DOCKED under no hold keeps OFF; one that leaves SILENT is sent its lamp; and the three
cases of the output side. -/
theorem witness_EventsEndWithLampsAndTransmission :
    ((withDock 0 held fresh).pillar.dock 0).state ≠ .silent ∧ ((withDock 0 held fresh).pillar.dock 0).state ≠ .unfitted ∧
    (fresh.pillar.dock 0).state = .silent ∧
    (∀ d, (fresh.pillar.dock d).state = .silent ∨ (fresh.pillar.dock d).state = .unfitted) ∧
    { fresh.pillar with tx := some (.availability 0 0 0 false true false) }.tx.isSome = true ∧
    (fresh.pillar.tx = none ∧ fresh.pillar.out = []) ∧
    { fresh.pillar with out := [.availability] }.out = .availability :: [] := by decide +kernel

/-! ### The Station Clock -/

/-- A check, or a store, that has one more ms tick to run, and no presentation waiting. -/
theorem witness_MsTick_bounds :
    (∀ k, (checking aToken fresh).tcu.check = some k → k.ticks < 2) ∧
    (∀ run, { fresh with store := { fresh.store with store := some { captured := .blank, ticks := 149 } } }.store.store =
      some run → run.ticks < 150) ∧
    (checking aToken fresh).canTake = false ∧ fresh.tcu.check = none ∧ fresh.store.store = none :=
  ⟨forall_some (by decide +kernel), forall_some (by decide +kernel), by decide +kernel, rfl, rfl⟩

theorem witness_MsTick_labelled :
    fresh.settle.meetBounds.clock.labelled = false ∧ (labelled 5 998).settle.meetBounds.clock.labelled = true ∧
    (labelled 5 998).settle.meetBounds.clock.k = 0 ∧ (labelled 5 998).settle.meetBounds.clock.ms < 999 ∧
    ¬ (labelled 4294967294 999).settle.meetBounds.clock.ms < 999 ∧
    (labelled 4294967294 999).settle.meetBounds.clock.sec < 4294967295 ∧
    ¬ (labelled 4294967295 999).settle.meetBounds.clock.sec < 4294967295 ∧
    fresh.settle.meetBounds.pillar.out = [] := by
  decide +kernel

/-- The head scanned at the lowest address of Rail A and at the highest of Rail B. -/
def scanLast : State := withRail .b (fun r => { r with scan := { addr := 24, kind := .roundRobin } }) fresh

theorem witness_Scan_no_answer :
    dockAt .a (scanLast.settle.meetBounds.pillar.rail .a).scan.addr = some 0 ∧
    dockAt .b (scanLast.settle.meetBounds.pillar.rail .b).scan.addr = some 47 ∧
    scanLast.settle.meetBounds.pillar.isFitted 47 = true ∧
    (scanLast.settle.meetBounds.pillar.rail .b).scan.kind ≠ .vacant ∧
    (scanLast.settle.meetBounds.pillar.rail .b).scan.kind ≠ .sweep ∧
    readScan noReply (scanLast.settle.meetBounds.pillar.rail .b).scanDelay = none ∧
    ((withHead 47 { seen .open with missed := 7 } scanLast).settle.meetBounds.pillar.head 47).missed = 7 := by
  decide +kernel

theorem witness_Scan_answers :
    readScan (reply 1#8 1200#16) (fresh.settle.meetBounds.pillar.rail .a).scanDelay = some (.restEmpty, 1200) ∧
    ((withHead 0 (seen .restEmpty) fresh).settle.meetBounds.pillar.head 0).confirmed = some .restEmpty ∧
    ((withHead 0 { seen .restHeld with candidate := some .restEmpty } fresh).settle.meetBounds.pillar.head 0).confirmed ≠ some .restEmpty ∧
    ((withHead 0 { seen .restHeld with candidate := some .restEmpty } fresh).settle.meetBounds.pillar.head 0).candidate = some .restEmpty ∧
    (fresh.settle.meetBounds.pillar.head 0).confirmed ≠ some .restEmpty ∧
    (fresh.settle.meetBounds.pillar.head 0).candidate ≠ some .restEmpty := by
  decide +kernel

/-- A sweep of head 1 at trial delay 31, and a rail with no fitted head. -/
def sweeping (good : BitVec 32) : State :=
  withRail .a (fun r => { r with
    scan := { addr := 1, kind := .sweep }, scanDelay := 31
    training := some { Training.start 0 with step := .sweep, scans := 63, firstGood := true, good := good } }) fresh

def unfitted : State := { fresh with pillar := { fresh.pillar with fitted := 0#48 } }

theorem witness_Scan_sweep :
    dockAt .a ((sweeping 0#32).settle.meetBounds.pillar.rail .a).scan.addr = some 0 ∧
    (sweeping 0#32).settle.meetBounds.pillar.isFitted 0 = true ∧
    ((sweeping 0#32).settle.meetBounds.pillar.rail .a).scan.kind = .sweep ∧
    ((sweeping 0#32).settle.meetBounds.pillar.rail .a).training =
      some { Training.start 0 with step := .sweep, scans := 63, firstGood := true, good := 0#32 } ∧
    true = decide (readScan (reply 5#8 0xA55A#16) ((sweeping 0#32).settle.meetBounds.pillar.rail .a).scanDelay =
      some (.training, 0xA55A)) ∧
    dockAt .a (unfitted.settle.meetBounds.pillar.rail .a).scan.addr = some 0 ∧
    unfitted.settle.meetBounds.pillar.isFitted 0 = false := by decide +kernel

/-- Dock 1 with a filter record under a head whose confirmed code is known. -/
def feeding (f : Filter) : State := withFilter 0 f (withHead 0 (seen .restHeld) fresh)

theorem witness_Feed_uninitialised :
    ((feeding Filter.fresh).settle.meetBounds.pillar.filter 0).initialised = false ∧
    dockAt .a ((feeding Filter.fresh).settle.meetBounds.pillar.rail .a).scan.addr = some 0 ∧
    ((feeding Filter.fresh).settle.meetBounds.pillar.head 0).confirmed ≠ none ∧
    ((feeding Filter.fresh).settle.meetBounds.pillar.head 0).confirmed ≠ some .training ∧
    (fresh.settle.meetBounds.pillar.head 0).confirmed = none ∧
    readScan (reply 5#8 7#16) (fresh.settle.meetBounds.pillar.rail .a).scanDelay = some (.training, 7) ∧
    readScan (reply 2#8 1850#16) (fresh.settle.meetBounds.pillar.rail .a).scanDelay = some (.restHeld, 1850) := by
  decide +kernel

/-- At a baseline of 1,200 under the factory settings: the counts at which the presence decision and the baseline part,
1,600 and 1,540, 1,280 and 1,150. -/
theorem witness_Feed_initialised :
    ((feeding { drifting with onRun := 2 }).settle.meetBounds.pillar.filter 0).initialised = true ∧
    ((feeding { drifting with onRun := 2 }).settle.meetBounds.pillar.filter 0).present = false ∧
    Settings.factory.bikeThreshold ≤ 1600 - 1200 ∧ Settings.factory.debounce ≤ 2 + 1 ∧ 1 + 1 < Settings.factory.debounce ∧
    1599 - 1200 < Settings.factory.bikeThreshold ∧
    ((feeding { drifting with present := true, offRun := 2 }).settle.meetBounds.pillar.filter 0).present = true ∧
    1539 - 1200 + Settings.factory.hysteresis < Settings.factory.bikeThreshold ∧
    Settings.factory.bikeThreshold ≤ 1540 - 1200 + Settings.factory.hysteresis ∧
    1280 - 1200 ≤ Settings.factory.noiseThreshold ∧ Settings.factory.noiseThreshold < 1281 - 1200 ∧
    1200 - 1150 ≤ Settings.factory.negNoise ∧ Settings.factory.negNoise < 1200 - 1149 ∧
    (feeding drifting).settle.meetBounds.store.work = Settings.factory := by decide +kernel

theorem witness_Schedule_frame_end :
    (fresh.settle.meetBounds.pillar.rail .a).chan.state = .idle ∧
    ((withRail .a (fun r => { r with quiet := 7 }) fresh).settle.meetBounds.pillar.rail .a).quiet = 7 ∧
    ((withRail .a (fun r => { r with chan := Channel.carry .rider { cmd := .relock, dock := 0 } })
      fresh).settle.meetBounds.pillar.rail .a).chan.state ≠ .idle ∧ State.reset.pillar.railA.frameDue = true := by decide +kernel

/-- The cases of R125 on Rail B, at the highest and the lowest address, and the two ways round robin takes a head. -/
theorem witness_Schedule_cases :
    ({ fresh.pillar.railB with pair := some { dock := 47, firstMade := true } }.pair =
      some { dock := 47, firstMade := true } ∧ railOf 47 = .b) ∧
    fresh.pillar.railB.pair = none ∧ { fresh.pillar.railB with attention := some 24 }.attention = some 24 ∧
    fresh.pillar.isFitted 24 = true ∧ railOf 24 = .b ∧ unfitted.pillar.isFitted 24 = false ∧
    { fresh.pillar.railB with training := some (Training.start 24) }.training = some (Training.start 24) ∧
    (Training.start 24).step ≠ .sweep ∧ { Training.start 24 with step := .sweep }.step = .sweep ∧
    fresh.pillar.railB.training = none ∧ fresh.pillar.railB.pointer < headAddr 25 ∧
    (∀ e, railOf e = .b → fresh.pillar.isFitted e = true → fresh.pillar.railB.pointer < headAddr e →
      headAddr 25 ≤ headAddr e) ∧
    (∀ e, railOf e = .b → fresh.pillar.isFitted e = true → headAddr e ≤ 24 ∧ headAddr 24 ≤ headAddr e) ∧
    (∀ d, railOf d = .b → unfitted.pillar.isFitted d = false) := by decide +kernel

/-- A clock whose pulse count stands at some cycles. -/
def counting (n : Nat) (s : State) : State := { s with clock := { s.clock with pulse := some n } }

theorem witness_Pulse_starts_or_is_rejected :
    fresh.settle.clock.pulse = none ∧ (counting 4055000 fresh).settle.clock.pulse = some 4055000 ∧ 4055000 + 39 < 4055040 ∧
    (counting 4136960 fresh).settle.clock.pulse = some 4136960 ∧ 4136960 < 4136960 + 1 ∧ fresh.settle.clock.k = 0 ∧
    { labelled 5 0 with clock := { (labelled 5 0).clock with k := 4, state := .locked } }.settle.clock.k ≠ 0 := by
  decide +kernel

theorem witness_Accepted_trim :
    (counting 4055000 fresh).settle.clock.pulse = some 4055000 ∧ 4055040 ≤ 4055000 + 40 ∧ 4055000 + 40 ≤ 4136960 ∧
    (counting 4136960 fresh).settle.clock.pulse = some 4136960 ∧ 4055040 ≤ 4136960 + 0 ∧
    (counting 4055000 fresh).settle.clock.labelled = false ∧ (counting 4055000 fresh).settle.clock.aligned = none := by
  decide +kernel

theorem witness_Accepted_phase :
    (counting 4096000 (labelled 5 500)).settle.clock.pulse = some 4096000 ∧
    (counting 4096000 (labelled 5 500)).settle.clock.labelled = true ∧
    (counting 4096000 (labelled 5 500)).settle.clock.aligned = none ∧
    500 ≤ (counting 4096000 (labelled 5 500)).settle.clock.ms ∧
    (counting 4096000 (labelled 5 499)).settle.clock.ms < 500 := by decide +kernel

/-- A clock with an aligned set pending. -/
def alignedTo (a : AlignedSet) (s : State) : State := { s with clock := { s.clock with aligned := some a } }

theorem witness_Accepted_aligned :
    (alignedTo { seconds := 52000, forcedBack := false, expiry := 1999 } (counting 4096000 fresh)).settle.clock.aligned =
      some { seconds := 52000, forcedBack := false, expiry := 1999 } ∧
    (alignedTo { seconds := 52000, forcedBack := false, expiry := 1999 } (counting 4096000 fresh)).settle.clock.pulse =
      some 4096000 ∧
    (alignedTo { seconds := 40, forcedBack := true, expiry := 0 } (counting 4096000 (labelled 90 0))).settle.clock.aligned =
      some { seconds := 40, forcedBack := true, expiry := 0 } := by decide +kernel

theorem witness_ClockEvents :
    { (labelled 5 0).clock with k := 1, absence := 3000 }.k ≠ 0 ∧ 3000 ≤ { (labelled 5 0).clock with k := 1, absence := 3000 }.absence ∧
    { (labelled 5 0).clock with growthDue := true }.growthDue = true ∧
    (alignedTo { seconds := 52000, forcedBack := true, expiry := 2000 } fresh).clock.aligned =
      some { seconds := 52000, forcedBack := true, expiry := 2000 } ∧ 2000 ≤ 2000 := by decide +kernel

theorem witness_SetTime :
    (labelled 52100 400).settle.link.port ≠ .working ∧ (labelled 52100 400).settle.tcu.check = none ∧
    ((labelled 52100 400).settle.clock.labelled = true ∧ (52097#32).toNat + 2 < (labelled 52100 400).settle.clock.sec) ∧
    ¬ ((52098#32).toNat + 2 < (labelled 52100 400).settle.clock.sec) ∧
    fresh.settle.clock.labelled = false := by decide +kernel

/-! ### The Station Link Port -/

/-- A length of 0, a length of 81 and a wrong sum are BAD_FRAME; an unknown command with a good sum is BAD_REQUEST. -/
theorem witness_BadWrite :
    fresh.settle.link.port ≠ .working ∧ beNat ([0#8, 0#8, 0#8].take 2) < 1 ∧
    80 < beNat ((0#8 :: 81#8 :: List.replicate 82 0#8).take 2) ∧ byteSum [0#8, 1#8, 1#8, 0xFF#8] ≠ 0#8 ∧
    [0#8, 1#8, 0x7F#8, 0x80#8].length = beNat ([0#8, 1#8, 0x7F#8, 0x80#8].take 2) + 3 ∧
    1 ≤ beNat ([0#8, 1#8, 0x7F#8, 0x80#8].take 2) ∧ beNat ([0#8, 1#8, 0x7F#8, 0x80#8].take 2) ≤ 80 ∧
    byteSum [0#8, 1#8, 0x7F#8, 0x80#8] = 0#8 ∧ requestOf 0x7F#8 [] = none ∧
    working.settle.link.port = .working ∧ (0x3D#8 ≠ 0x3C#8 ∧ 0x3D#8 ≠ 0xC3#8) := by decide +kernel

theorem witness_ReadSelection :
    answered.settle.link.port = .answered ∧ answered.settle.link.response = some .ok ∧ Response.ok.bytes.length ≤ 4 ∧
    3 < Response.ok.bytes.length ∧ fresh.settle.link.port ≠ .answered ∧
    { fresh with link := { fresh.link with silenceDue := true } }.link.silenceDue = true := by decide +kernel

theorem witness_RefusedRequests :
    (applyRequest (.lampAuto 49#8) fresh).2.code ≠ .ok ∧ (applyRequest (.lampAuto 49#8) fresh).2.code ≠ .okClamped ∧
    (applyRequest (.lampAuto 49#8) fresh).2.code ≠ .full := by decide +kernel

theorem witness_Readouts :
    fresh.settle.link.port ≠ .working ∧ dockOperand 1#8 = some 0 ∧ dockOperand 48#8 = some 47 ∧
    settingOperand 1#8 = some .stationGroup ∧ settingOperand 3#8 = some .sampleDelay ∧
    settingOperand 19#8 = some .linkSilence ∧ (dockOperand 48#8).isSome = true := by decide +kernel

/-- 61 records wait, and two docks owe a return. -/
def owingTwo : State :=
  withDock 47 { held with owed := some { tag := none, notSensed := true, intoService := false } }
    (withDock 0 { held with owed := some { tag := some 5#64, notSensed := false, intoService := true } }
      { fresh with pillar := { fresh.pillar with records := List.replicate 61 { time := none, body := .poorDock 0 } } })

theorem witness_ReadRecords :
    fresh.settle.link.port ≠ .working ∧ (1 ≤ (8#8).toNat ∧ (8#8).toNat ≤ 8) ∧ (1 ≤ (1#8).toNat ∧ (1#8).toNat ≤ 8) ∧
    owingTwo.settle.pillar.owing.map Prod.fst = [0, 47] ∧ owingTwo.settle.link.port ≠ .working := by decide +kernel

/-! ### The Token Check Unit -/

/-- Keys in both slots. -/
def keyed (s : State) : State :=
  { s with tcu := { s.tcu with keyA := some { epoch := 3#8, key := 7#128 }, keyB := some { epoch := 4#8, key := 9#128 } } }

theorem witness_KeyRequests :
    (keyed fresh).settle.link.port ≠ .working ∧ (keyed fresh).settle.tcu.check = none ∧ (keyed fresh).settle.store.busy = false ∧
    (keyed fresh).settle.tcu.keyA ≠ none ∧ (keyed fresh).settle.tcu.keyB ≠ none ∧ (0#8 ≠ 1#8 ∧ 0#8 ≠ 2#8) ∧
    (3#8 ≠ 1#8 ∧ 3#8 ≠ 2#8) ∧ (keyed fresh).settle.tcu.keyB = some { epoch := 4#8, key := 9#128 } ∧
    fresh.settle.tcu.keyA = none ∧ fresh.settle.tcu.keyB = none ∧
    { fresh with store := { fresh.store with busy := true } }.settle.store.busy = true := by decide +kernel

theorem witness_KeyRequests_epochs :
    (∀ k, (keyed fresh).settle.tcu.keyB = some k → k.epoch ≠ 3#8) ∧
    (∀ k, (keyed fresh).settle.tcu.keyA = some k → k.epoch ≠ 4#8) :=
  ⟨forall_some (by decide +kernel), forall_some (by decide +kernel)⟩

/-- Some accounts denied. -/
def denied (ids : List Word) (s : State) : State := { s with tcu := { s.tcu with deny := ids } }

theorem denyOk_two : ∀ t : Tcu, t.deny = [2#32, 9#32] → t.denyOk := by
  intro t h
  unfold Tcu.denyOk
  rw [h]
  exact ⟨by decide, by decide, by simp [accountInRange]⟩

theorem witness_DenyAdd :
    ((denied [2#32, 9#32] fresh).settle.link.port ≠ .working ∧ (denied [2#32, 9#32] fresh).settle.tcu.check = none) ∧
    (2#8).toNat = [1#32, 0xFFFFFFFE#32].length ∧ (∀ id ∈ [1#32, 0xFFFFFFFE#32], accountInRange id = true) ∧
    (denied [2#32, 9#32] fresh).settle.tcu.denyOk ∧ (denied [2#32, 9#32] fresh).settle.tcu.deny = [2#32, 9#32] ∧
    2 = (([1#32, 0xFFFFFFFE#32].filter (fun id => !(List.contains [2#32, 9#32] id))).dedup).length ∧
    [2#32, 9#32].length + 2 ≤ 512 :=
  ⟨by decide +kernel, by decide, by simp [accountInRange], denyOk_two _ (by decide +kernel), by decide +kernel,
    by decide, by decide⟩

/-- The deny list at its bound, with the ids 1 to 512. -/
theorem denyOk_full : ∀ t : Tcu, t.deny = (List.range' 1 512).map (BitVec.ofNat 32) → t.denyOk := by
  intro t h
  unfold Tcu.denyOk
  rw [h]
  refine ⟨List.pairwise_map.mpr (List.Pairwise.imp_of_mem ?_ List.pairwise_lt_range'), by simp [Config.denyMax], ?_⟩
  · intro a b ha hb hab
    have h1 := List.mem_range'_1.mp ha
    have h2 := List.mem_range'_1.mp hb
    rw [BitVec.lt_def, BitVec.toNat_ofNat, BitVec.toNat_ofNat]
    omega
  · intro id hid
    obtain ⟨n, hn, rfl⟩ := List.mem_map.mp hid
    have h1 := List.mem_range'_1.mp hn
    have h2 : (BitVec.ofNat 32 n).toNat = n := by
      rw [BitVec.toNat_ofNat]
      omega
    unfold accountInRange
    have h3 : BitVec.ofNat 32 n ≠ 0#32 := fun h => by
      rw [h] at h2
      simp at h2
      omega
    have h4 : BitVec.ofNat 32 n ≠ 0xFFFFFFFF#32 := fun h => by
      rw [h] at h2
      simp at h2
      omega
    simp [h3, h4]

theorem witness_DenyAdd_full_and_refused :
    (denied ((List.range' 1 512).map (BitVec.ofNat 32)) fresh).settle.tcu.denyOk ∧
    (denied ((List.range' 1 512).map (BitVec.ofNat 32)) fresh).settle.tcu.deny.length = 512 ∧
    [600#32].filter (fun id =>
      !(denied ((List.range' 1 512).map (BitVec.ofNat 32)) fresh).settle.tcu.deny.contains id) = [600#32] ∧
    512 < 512 + [600#32].dedup.length ∧ (0#8).toNat = ([] : List Word).length ∧
    16 < (List.replicate 17 1#32).length ∧ (17#8).toNat = (List.replicate 17 1#32).length ∧
    (∃ id ∈ [0#32], accountInRange id = false) :=
  by
    have out : ∃ id ∈ [0#32], accountInRange id = false := ⟨0#32, by simp, rfl⟩
    refine ⟨denyOk_full _ (by decide +kernel), ?_⟩
    repeat' refine And.intro (by decide +kernel) ?_
    exact out

theorem witness_DenyRemove :
    9#32 ∈ (denied [2#32, 9#32] fresh).settle.tcu.deny ∧ 3#32 ∉ (denied [2#32, 9#32] fresh).settle.tcu.deny ∧
    (denied [2#32, 9#32] fresh).settle.tcu.denyOk :=
  ⟨by decide +kernel, by decide +kernel, denyOk_two _ (by decide +kernel)⟩

/-- A presentation waits. -/
def waiting (n : Nat) (s : State) : State :=
  { s with rider := { s.rider with inbox := List.replicate n { ref := 4#8, token := aToken } } }

theorem witness_TakePresentation :
    (waiting 1 fresh).settle.tcu.check = none ∧ (waiting 1 fresh).settle.tcu.heldCancel = none ∧
    (waiting 1 fresh).settle.tcu.held = none ∧ (waiting 1 fresh).settle.rider.inbox = { ref := 4#8, token := aToken } :: [] := by
  decide +kernel

/-- The token with its tag under the key of epoch 3. -/
def tagged : Token := { aToken with tag := tokenTag 7#128 aToken }

/-- The check of that token at S = 100, with dock 1 DOCKED and first in the Dock Order List. -/
def deciding (t : Token) : State :=
  checking t (keyed (withDock 0 held { labelled 100 0 with pillar := { (labelled 100 0).pillar with order := [0] } }))

/-- The presentation of a token under check. -/
def underCheck (t : Token) : Check := { pres := { ref := 4#8, token := t }, refInUse := false, ticks := 0 }

/-- `State.passes` as a test: whether a presentation under check passes a stage. -/
def passesTest (k : Check) (s : State) (stage : Nat) : Bool :=
  let t := k.pres.token
  match stage with
  | 1 =>
    t.format = 1#8 && t.account ≠ 0#32 && t.account ≠ 0xFFFFFFFF#32 && t.dock.toNat ≤ 48 && t.bikeClass.toNat ≤ 2
      && (List.range 8).all (fun n => n = 0 || !t.flags.getLsbD n) && t.notBefore.toNat ≤ t.notAfter.toNat
      && t.notAfter.toNat ≤ t.notBefore.toNat + 600 && !k.refInUse
  | 2 => s.tcu.keyA.any (fun x => x.epoch = t.epoch) || s.tcu.keyB.any (fun x => x.epoch = t.epoch)
  | 3 =>
    s.tcu.keyA.all (fun x => x.epoch ≠ t.epoch || keyedTag x.key t = t.tag)
      && (s.tcu.keyA.any (fun y => y.epoch = t.epoch)
        || s.tcu.keyB.all (fun x => x.epoch ≠ t.epoch || keyedTag x.key t = t.tag))
  | 4 => t.group.toNat = s.store.work.stationGroup || t.group = 0xFFFF#16
  | 5 => s.clock.usable s.store.work.uncertaintyLimit
  | 6 => s.tcu.mark ≤ t.notBefore.toNat
  | 7 => t.notBefore.toNat * 1000 ≤ s.clock.sec * 1000 + s.clock.ms + s.clock.unc
  | 8 => max (s.clock.sec * 1000 + s.clock.ms) s.clock.high ≤ t.notAfter.toNat * 1000 + 999 + s.clock.unc
  | 9 => s.link.online || t.flags.getLsbD 0
  | 10 => !s.tcu.deny.contains t.account
  | 11 => s.pillar.spent.all (fun e => e.serial ≠ t.serial)
  | 12 => allSlots.all (fun i => (s.pillar.grant i).all (fun g => g.rider.all (fun x => x.account ≠ t.account)))
  | 13 => !s.pillar.suspended && !s.store.inService
  | _ => true

theorem passesTest_iff (k : Check) (s : State) (stage : Nat) : passesTest k s stage = true ↔ s.passes k stage := by
  match stage with
  | 0 => simp [passesTest, State.passes]
  | 1 =>
    simp only [passesTest, State.passes, Bool.and_eq_true, decide_eq_true_eq, Bool.not_eq_true', List.all_eq_true,
      List.mem_range, Bool.or_eq_true, and_assoc]
    have bits : (∀ n, n < 8 → n = 0 ∨ k.pres.token.flags.getLsbD n = false) ↔
        ∀ n, 1 ≤ n → n < 8 → k.pres.token.flags.getLsbD n = false :=
      ⟨fun h n h1 h8 => (h n h8).resolve_left (by omega), fun h n h8 => by
        rcases Nat.eq_zero_or_pos n with h0 | h0
        · exact .inl h0
        · exact .inr (h n h0 h8)⟩
    rw [bits]
  | 2 =>
    simp only [passesTest, State.passes, Bool.or_eq_true, Option.any_eq_true, decide_eq_true_eq]
    constructor
    · rintro (⟨x, h, e⟩ | ⟨x, h, e⟩)
      · exact ⟨x, .inl h, e⟩
      · exact ⟨x, .inr h, e⟩
    · rintro ⟨x, h | h, e⟩
      · exact .inl ⟨x, h, e⟩
      · exact .inr ⟨x, h, e⟩
  | 3 =>
    cases ha : s.tcu.keyA <;> cases hb : s.tcu.keyB <;> simp [passesTest, State.passes, ha, hb]
    all_goals grind
  | 4 => simp [passesTest, State.passes]
  | 5 => simp [passesTest, State.passes]
  | 6 => simp [passesTest, State.passes]
  | 7 => simp [passesTest, State.passes]
  | 8 => simp [passesTest, State.passes]
  | 9 => simp [passesTest, State.passes]
  | 10 => simp [passesTest, State.passes]
  | 11 => simp [passesTest, State.passes]
  | 12 =>
    simp only [passesTest, State.passes, List.all_eq_true, Option.all_eq_true, decide_eq_true_eq]
    exact ⟨fun h i g x hg hx => h i (by simp [allSlots]) g hg x hx, fun h i _ g hg x hx => h i g x hg hx⟩
  | 13 => simp [passesTest, State.passes]
  | n + 14 => simp [passesTest, State.passes]

/-- A stage is the first that a presentation fails. -/
def failsFirst (k : Check) (s : State) (n : Nat) : Bool :=
  s.settle.tcu.check = some k && !passesTest k s.settle n && (List.range n).all (fun m => passesTest k s.settle m)

theorem failsFirst_meets (k : Check) (s : State) (n : Nat) (h : failsFirst k s n = true) :
    s.settle.tcu.check = some k ∧ ¬ s.settle.passes k n ∧ ∀ m, m < n → s.settle.passes k m := by
  simp only [failsFirst, Bool.and_eq_true, decide_eq_true_eq, Bool.not_eq_true', List.all_eq_true, List.mem_range] at h
  refine ⟨h.1.1, fun hp => ?_, fun m hm => (passesTest_iff k _ m).mp (h.2 m hm)⟩
  rw [(passesTest_iff k _ n).mpr hp] at h
  cases h.1.2

/-- The part with a check of another presentation. -/
def checked (k : Check) (s : State) : State := { s with tcu := { s.tcu with check := some k } }

/-- R14: each test of stage 1, at the boundary of its range. -/
theorem witness_Refused_malformed :
    [{ tagged with format := 0#8 }, { tagged with account := 0#32 }, { tagged with account := 0xFFFFFFFF#32 },
        { tagged with dock := 49#8 }, { tagged with bikeClass := 3#8 }, { tagged with flags := 2#8 },
        { tagged with flags := 0x80#8 }, { tagged with notBefore := 601#32 }, { tagged with notAfter := 651#32 }].all
      (fun t => failsFirst (underCheck t) (deciding t) 1) = true ∧
    failsFirst { underCheck tagged with refInUse := true }
      (checked { underCheck tagged with refInUse := true } (deciding tagged)) 1 = true := by decide +kernel

/-- R15: no key of the epoch, another tag, and another station group; with the tag of R2 under the key of slot B too. -/
theorem witness_Refused_by_key_tag_and_group :
    failsFirst (underCheck { tagged with epoch := 5#8 }) (deciding { tagged with epoch := 5#8 }) 2 = true ∧
    failsFirst (underCheck aToken) (deciding aToken) 3 = true ∧
    failsFirst (underCheck { aToken with epoch := 4#8 }) (deciding { aToken with epoch := 4#8 }) 3 = true ∧
    (let other : Token := { aToken with group := 2#16 }
    let t : Token := { other with tag := tokenTag 7#128 other }
    failsFirst (underCheck t) (deciding t) 4 = true) := by decide +kernel

/-- The stages 5 to 10, 12 and 13, each the first that fails: the clock is UNSET; the window opened before the restart mark;
it has not opened; it is over; the link is OFFLINE and the token may not be used then; the account is denied; it has an
active grant; and the part is suspended or in service state. -/
theorem witness_Refused_at_a_stage :
    failsFirst (underCheck tagged) (checking tagged (keyed fresh)) 5 = true ∧
    failsFirst (underCheck tagged)
      { deciding tagged with tcu := { (deciding tagged).tcu with mark := 51 } } 6 = true ∧
    failsFirst (underCheck tagged) (checking tagged (keyed (labelled 49 499))) 7 = true ∧
    failsFirst (underCheck tagged) (checking tagged (keyed (labelled 601 500))) 8 = true ∧
    (let online : Token := { aToken with flags := 0#8 }
    let t : Token := { online with tag := tokenTag 7#128 online }
    failsFirst (underCheck t) (deciding t) 9 = true) ∧
    failsFirst (underCheck tagged) (denied [4410#32] (deciding tagged)) 10 = true ∧
    failsFirst (underCheck tagged)
      { granted .open .open (some 9) (deciding tagged) with
        pillar := { (granted .open .open (some 9) (deciding tagged)).pillar with spent := [] } } 12 = true ∧
    failsFirst (underCheck tagged)
      { deciding tagged with pillar := { (deciding tagged).pillar with suspended := true } } 13 = true ∧
    failsFirst (underCheck tagged)
      { deciding tagged with store := { (deciding tagged).store with inService := true } } 13 = true := by decide +kernel

/-- The same, with the serial in the spent list. -/
def spending (grant : Option Nat) : State :=
  let s := granted .open .open (some 20000) (deciding tagged)
  { s with pillar := { s.pillar with spent := [{ serial := 600101#32, notAfter := 900, grant := grant }] } }

theorem witness_Repeated :
    (spending none).settle.tcu.check = some (underCheck tagged) ∧
    (∀ n, n ≤ 10 → (spending none).settle.passes (underCheck tagged) n) ∧
    (spending none).settle.pillar.spentEntry 600101#32 = some { serial := 600101#32, notAfter := 900, grant := none } ∧
    (spending (some 71)).settle.tcu.check = some (underCheck tagged) ∧
    (∀ n, n ≤ 10 → (spending (some 71)).settle.passes (underCheck tagged) n) ∧
    (spending (some 71)).settle.pillar.spentEntry 600101#32 = some { serial := 600101#32, notAfter := 900, grant := some 71 } ∧
    (spending (some 71)).settle.pillar.findGrant 71 = some (0, riderGrant .open (some 20000)) := by
  have pass : ∀ g, (List.range 11).all (fun n => passesTest (underCheck tagged) (spending g).settle n) = true →
      ∀ n, n ≤ 10 → (spending g).settle.passes (underCheck tagged) n := fun g h n hn =>
    (passesTest_iff _ _ n).mp (List.all_eq_true.mp h n (List.mem_range.mpr (by omega)))
  exact ⟨by decide +kernel, pass _ (by decide +kernel), by decide +kernel, by decide +kernel,
    pass _ (by decide +kernel), by decide +kernel, by decide +kernel⟩

/-- The check of a token that passes every stage. -/
theorem witness_Passing_stages :
    (deciding tagged).settle.tcu.check = some (underCheck tagged) ∧
    (deciding tagged).settle.passesAll (underCheck tagged) := by
  have pass : (List.range 14).all (fun n => passesTest (underCheck tagged) (deciding tagged).settle n) = true := by
    decide +kernel
  refine ⟨by decide +kernel, fun n => (passesTest_iff _ _ n).mp ?_⟩
  rcases Nat.lt_or_ge n 14 with h | h
  · exact List.all_eq_true.mp pass n (List.mem_range.mpr h)
  · obtain ⟨m, rfl⟩ := Nat.exists_eq_add_of_le' h
    rfl

/-- In that state: room, with a dock named by the ticket, by the request, or by the walk; and the same without room. -/
theorem witness_Passing_room :
    (deciding tagged).settle.pillar.freeSlot = some 0 ∧
    (deciding tagged).settle.pillar.records.length + (deciding tagged).settle.pillar.active
      + (deciding tagged).settle.pillar.owedCount < 64 ∧
    ((deciding tagged).settle.pillar.prunedSpent (deciding tagged).settle.clock).length < 256 ∧
    tagged.ticket = 0#8 ∧ tagged.dock = 0#8 ∧ (deciding tagged).settle.pillar.walk tagged.bikeClass = some 0 ∧
    fresh.pillar.walk 0#8 = none ∧ dockOperand { tagged with dock := 48#8 }.dock = some 47 ∧
    ((deciding tagged).settle.pillar.dock 0).eligible 0#8 0#8 = true ∧
    ((deciding tagged).settle.pillar.dock 47).eligible 0#8 0#8 = false ∧
    ((withDock 0 { held with hold := some (.reserve 8#8 300) } fresh).pillar.dock 0).hold = some (.reserve 8#8 300) ∧
    ((withDock 0 { held with hold := some (.reserve 8#8 300) } fresh).pillar.dock 0).eligible 0#8 8#8 = true ∧
    (∀ e : DockNo, e ≠ 0 →
      ((withDock 0 { held with hold := some (.reserve 8#8 300) } fresh).pillar.dock e).hold = none) ∧
    64 ≤ { fresh.pillar with records := List.replicate 64 { time := none, body := .poorDock 0 } }.records.length := by
  decide +kernel

/-- A check is in flight with the port free, and a request is being worked. -/
theorem witness_Held_requests :
    (checking aToken fresh).settle.link.port ≠ .working ∧ (checking aToken fresh).settle.tcu.check.isSome = true ∧
    wellFormed (.denyAdd 1#8 [5#32]) = true ∧ commandRequest (.denyAdd 1#8 [5#32]) = some (.denyAdd 1#8 [5#32]) ∧
    wellFormed .restoreFactory = true ∧ commandRequest .restoreFactory = some .restoreFactory ∧
    commandRequest (.setTimeAligned 9#32 1#8) = some (.setTime 9#32 2#8 1#8) ∧ working.settle.link.port = .working ∧
    commandRequest .status = some .status := by decide +kernel

theorem witness_Held :
    { fresh with tcu := { fresh.tcu with heldCancel := some 4#8 } }.tcu.check = none ∧
    { fresh with tcu := { fresh.tcu with heldCancel := some 4#8 } }.tcu.heldCancel = some 4#8 ∧
    { working with tcu := { working.tcu with check := none } }.tcu.held = some (.keyDrop 1#8) ∧
    { working with tcu := { working.tcu with check := none } }.tcu.heldCancel = none := by decide +kernel

/-! ### The docks, the grants and the settings -/

/-- Dock 48 DOCKED with no hold, at S = 100. -/
def dockedLast : State := withDock 47 held { labelled 100 0 with pillar := { (labelled 100 0).pillar with order := [47] } }

theorem witness_Holds :
    dockedLast.settle.link.port ≠ .working ∧ dockOperand 48#8 = some 47 ∧ 255#8 ≠ 0#8 ∧
    (dockedLast.settle.pillar.dock 47).state = .docked ∧ (dockedLast.settle.pillar.dock 47).hold = none ∧
    dockedLast.settle.clock.labelled = true ∧ dockedLast.settle.clock.sec < (101#32).toNat ∧
    (∀ e, (dockedLast.settle.pillar.dock e).hold = none) ∧ (dockedLast.settle.pillar.dock 47).state ≠ .unfitted ∧
    ((withDock 47 { held with hold := some .service } fresh).settle.pillar.dock 47).hold ≠ none ∧
    conditionOperand 1#8 = some .ok ∧ conditionOperand 2#8 = some .reported ∧
    (dockedLast.settle.pillar.dock 47).bike = held.bike := by decide +kernel

theorem witness_Lamps :
    dockedLast.settle.link.port ≠ .working ∧ dockOperand 48#8 = some 47 ∧ (dockedLast.settle.pillar.dock 47).state ≠ .unfitted ∧
    patternOperand 3#8 = some .fast ∧ patternOperand 0#8 = some .off ∧
    (dockedLast.settle.pillar.dock 47).state ≠ .silent := by decide +kernel

/-- Dock 1 in FAULT over a head with a confirmed code. -/
def faulty (code : Code) : State :=
  withHead 0 (seen code) (withDock 0 { held with state := .fault, cause := some .unreachable } fresh)

theorem witness_ClearFault :
    (faulty .restEmpty).settle.link.port ≠ .working ∧ dockOperand 1#8 = some 0 ∧
    ((faulty .restEmpty).settle.pillar.dock 0).state = .fault ∧
    ((faulty .restEmpty).settle.pillar.head 0).confirmed = some .restEmpty ∧
    ((faulty .restHeld).settle.pillar.head 0).confirmed = some .restHeld ∧
    ((faulty .open).settle.pillar.head 0).confirmed = some .open ∧
    ((faulty .jammed).settle.pillar.head 0).confirmed = some .jammed ∧
    ((faulty .training).settle.pillar.head 0).confirmed = some .training ∧
    ((withDock 0 { held with state := .fault } fresh).settle.pillar.head 0).confirmed = none := by decide +kernel

theorem witness_StaffRelease :
    dockedLast.settle.link.port ≠ .working ∧ (dockedLast.settle.pillar.dock 47).state = .docked ∧
    dockedLast.settle.pillar.freeSlot = some 0 ∧
    dockedLast.settle.pillar.records.length + dockedLast.settle.pillar.active + dockedLast.settle.pillar.owedCount < 64 := by
  decide +kernel

/-- R63: the counter at 254 with the ids 255 and 1 in use: the next id is 2. -/
theorem witness_NextId :
    let s := withGrant 1 { riderGrant .queued none with id := 255 } (withGrant 0 { riderGrant .queued none with id := 1 } fresh)
    let p := { s.pillar with lastGrant := 254 }
    p.lastGrant ≤ 255 ∧ p.newId = 2 ∧ 2 = (p.lastGrant + 2) % 255 + 1 ∧ p.findGrant 2 = none ∧
    (∀ m, m < 2 → (p.findGrant ((p.lastGrant + m) % 255 + 1)).isSome = true) := by decide +kernel

/-- Requests refused on the docks: an operand at each bound, dock 48 DOCKED, under a hold, at S = 100; the clock UNSET; an id
that another dock carries; an UNFITTED dock; and no slot and no room. -/
theorem witness_Refused_docks :
    fresh.settle.link.port ≠ .working ∧ 48 < (49#8).toNat ∧ (0#8).toNat = 0 ∧ dockOperand 48#8 = some 47 ∧
    (dockedLast.settle.pillar.dock 0).state ≠ .docked ∧ (dockedLast.settle.pillar.dock 0).bike = none ∧
    (dockedLast.settle.pillar.dock 0).state ≠ .fault ∧ (100#32).toNat ≤ dockedLast.settle.clock.sec ∧
    fresh.settle.clock.labelled = false ∧
    (let s := withDock 0 { held with hold := some (.reserve 255#8 300) } dockedLast
    (s.settle.pillar.dock 0).hold = some (.reserve 255#8 300) ∧ (s.settle.pillar.dock 47).state = .docked ∧
    (s.settle.pillar.dock 47).hold = none ∧ s.settle.clock.labelled = true ∧ s.settle.clock.sec < (101#32).toNat) ∧
    ((withDock 0 (.fresh .unfitted) fresh).settle.pillar.dock 0).state = .unfitted ∧ (3#8).toNat ≤ 3 ∧
    3 < (4#8).toNat ∧ 3#8 ≠ 1#8 ∧ 3#8 ≠ 2#8 ∧
    (∀ i, ((List.finRange 8).foldl (fun s i => withGrant i { riderGrant .queued none with id := i.val + 1 } s)
      dockedLast).settle.pillar.grant i ≠ none) ∧
    (let s := withDock 47 held { fresh with pillar := { fresh.pillar with
      records := List.replicate 64 { time := none, body := .poorDock 0 } } }
    (s.settle.pillar.dock 47).state = .docked ∧ 64 ≤ s.settle.pillar.records.length) := by decide +kernel

theorem witness_Refused_grants :
    (∀ i, fresh.settle.pillar.grant i = none) ∧ (granted .relocking .relock (some 9) fresh).settle.link.port ≠ .working ∧
    (granted .relocking .relock (some 9) fresh).settle.pillar.findGrant (71#8).toNat =
      some (0, riderGrant .relock (some 9)) := by decide +kernel

theorem witness_AbortGrant :
    (granted .releasing .queued none fresh).settle.link.port ≠ .working ∧ 71#8 ≠ 0#8 ∧
    (granted .releasing .queued none fresh).settle.pillar.findGrant (71#8).toNat = some (0, riderGrant .queued none) ∧
    (granted .releasing .sending none fresh).settle.pillar.findGrant (71#8).toNat = some (0, riderGrant .sending none) ∧
    (riderGrant .sending none).cancelPending = false ∧
    (granted .releasing .confirming (some 9) fresh).settle.pillar.findGrant (71#8).toNat =
      some (0, riderGrant .confirming (some 9)) ∧
    (granted .open .open (some 9) fresh).settle.pillar.findGrant (71#8).toNat = some (0, riderGrant .open (some 9)) ∧
    (granted .relocking .relock (some 9) fresh).settle.pillar.findGrant (71#8).toNat = some (0, riderGrant .relock (some 9)) := by
  decide +kernel

/-- The part in service state with a fitted set to be applied: dock 1 newly unfitted, dock 48 newly fitted. -/
def serving : State :=
  { fresh with
    store := { fresh.store with inService := true, work := { fresh.store.work with fitted := 0xFFFFFFFFFFFE#48 } }
    pillar := { fresh.pillar with fitted := 0x7FFFFFFFFFFF#48 } }

theorem witness_SuspendAndService :
    fresh.settle.link.port ≠ .working ∧ (∀ i, fresh.settle.pillar.grant i = none) ∧ serving.settle.link.port ≠ .working ∧
    serving.settle.store.inService = true ∧ serving.settle.pillar.railA.training = none ∧
    serving.settle.pillar.railB.training = none ∧ (∀ i, serving.settle.pillar.grant i = none) ∧
    (serving.settle.pillar.isFitted 0 = true ∧ serving.settle.store.work.fitted.getLsbD 0 = false) ∧
    (serving.settle.pillar.isFitted 47 = false ∧ serving.settle.store.work.fitted.getLsbD 47 = true) ∧
    serving.settle.pillar.isFitted 1 = serving.settle.store.work.fitted.getLsbD 1 := by decide +kernel

/-- A newly unfitted head with a message in the channel, and a head that stays with one. -/
theorem witness_ServiceLeave_messages :
    let s := fun (d : DockNo) => withRail .a (fun r => { r with
      upkeep := [{ cmd := .tagRead, dock := d }], chan := Channel.carry .upkeep { cmd := .lamp .fast, dock := d } }) serving
    ((s 0).settle.pillar.rail .a).chan.msg = some ({ cmd := .lamp .fast, dock := 0 }, .upkeep) ∧
    ((s 0).settle.pillar.rail .a).queue .upkeep = [{ cmd := .tagRead, dock := 0 }] ∧ railOf 0 = .a ∧
    (s 0).settle.pillar.isFitted 0 = true ∧ (s 0).settle.store.work.fitted.getLsbD 0 = false ∧
    ((s 1).settle.pillar.rail .a).chan.msg = some ({ cmd := .lamp .fast, dock := 1 }, .upkeep) ∧
    (s 1).settle.store.work.fitted.getLsbD 1 = true := by decide +kernel

theorem witness_SettingWrite :
    fresh.settle.link.port ≠ .working ∧ fresh.settle.store.busy = false ∧ settingOperand 12#8 = some .pullWindow ∧
    settingOperand 1#8 = some .stationGroup ∧ serving.settle.store.inService = true ∧ settingOperand 6#8 = some .noiseThreshold ∧
    (fresh.settle.store.work.write .noiseThreshold
      (max SettingName.noiseThreshold.range.1 (min SettingName.noiseThreshold.range.2 (300#48).toNat))).thresholdsOk = true := by
  decide +kernel

theorem witness_SettingReaches :
    serving.settle.link.port ≠ .working ∧ serving.settle.store.busy = false ∧ dockOperand 48#8 = some 47 ∧
    serving.settle.store.inService = true ∧ 32 = max SettingName.bucket.range.1 (min SettingName.bucket.range.2 (32#48).toNat) ∧
    15 = max SettingName.debounce.range.1 (min SettingName.debounce.range.2 (16#48).toNat) ∧
    1 = max SettingName.lowResetScans.range.1 (min SettingName.lowResetScans.range.2 (0#48).toNat) ∧
    (fresh.settle.pillar.filter 0).initialised = false ∧
    ((withFilter 0 drifting fresh).settle.pillar.filter 0).bucket < fresh.settle.store.work.bucket ∧
    ((withFilter 0 drifting fresh).settle.pillar.filter 0).initialised = true := by decide +kernel

/-- A store in progress. -/
def storing : State := { fresh with store := { fresh.store with busy := true, store := some { captured := .blank, ticks := 149 } } }

theorem witness_Store :
    fresh.settle.link.port ≠ .working ∧ fresh.settle.store.busy = false ∧
    storing.settle.store.store = some { captured := .blank, ticks := 149 } := by decide +kernel

theorem witness_RestoreFactory :
    fresh.settle.link.port ≠ .working ∧ fresh.settle.tcu.check = none ∧ fresh.settle.store.busy = false ∧
    (fresh.settle.pillar.filter 0).initialised = false ∧
    (let f := { Filter.fresh with initialised := true, bucket := 100, lowRun := 20, onRun := 3, offRun := 2 }
    (withFilter 0 f { fresh with store := { fresh.store with work := { fresh.store.work with
      bucket := 200, lowResetScans := 40, debounce := 8 } } }).settle.pillar.filter 0 = f) := by decide +kernel

/-- Requests refused on the settings and the service state. -/
theorem witness_Refused_settings :
    (0#8).toNat = 0 ∧ 19 < (20#8).toNat ∧ 1 ≤ (19#8).toNat ∧ (3#8).toNat ≤ 3 ∧ storing.settle.store.busy = true ∧
    storing.settle.link.port ≠ .working ∧ storing.settle.tcu.check = none ∧ fresh.settle.store.busy = false ∧
    fresh.settle.store.inService = false ∧ settingOperand 4#8 = some .bikeThreshold ∧
    (let w := fresh.settle.store.work.write .bikeThreshold (max SettingName.bikeThreshold.range.1
      (min SettingName.bikeThreshold.range.2 (145#48).toNat))
    ¬ w.noiseThreshold + w.hysteresis + 5 < w.bikeThreshold) ∧
    (9#8).toNat > 8 ∧ 2#8 ≠ 0#8 ∧ 2#8 ≠ 1#8 ∧ 3#8 ≠ 1#8 ∧ 3#8 ≠ 2#8 := by decide +kernel

theorem witness_Refused_service :
    serving.settle.store.inService = true ∧ railOperand 1#8 = some .a ∧
    ((withRail .a (fun r => { r with training := some (.start 0) }) serving).settle.pillar.rail .a).training.isSome = true ∧
    fresh.settle.store.inService = false ∧
    (granted .open .open (some 9) fresh).settle.pillar.grant 0 = some (riderGrant .open (some 9)) ∧
    (granted .open .open (some 9) serving).settle.store.work.fitted.getLsbD 0 = false := by decide +kernel

theorem witness_RailTrain :
    serving.settle.link.port ≠ .working ∧ railOperand 1#8 = some .a ∧ railOperand 2#8 = some .b ∧
    serving.settle.store.inService = true ∧ (serving.settle.pillar.rail .b).training = none ∧
    (serving.settle.pillar.fittedDocks .b).head? = some 24 ∧ (serving.settle.pillar.head 24).missed < 8 ∧
    serving.settle.pillar.waits 24 Cmd.isStray = false := by decide +kernel

/-- Training of head 1 of Rail A. -/
def training (t : Training) : State := withRail .a (fun r => { r with training := some t }) fresh

theorem witness_Training :
    ((training { Training.start 0 with deadline := some 0, attempt := 2 }).pillar.rail .a).training =
      some { Training.start 0 with deadline := some 0, attempt := 2 } ∧ railOf 0 = .a ∧
    ((training { Training.start 0 with step := .sweep, scans := 64, good := 0x0800FFC0#32 }).pillar.rail .a).training =
      some { Training.start 0 with step := .sweep, scans := 64, good := 0x0800FFC0#32 } ∧
    ((List.range 10).all (fun n => (0x0800FFC0#32).getLsbD (6 + n)) = true) ∧
    ((List.range 6).all (fun n => !(0x0800FFC0#32).getLsbD n) = true) ∧ (0x0800FFC0#32).getLsbD 16 = false ∧
    (0x80000000#32).getLsbD 31 = true ∧ (0x80000000#32).getLsbD 32 = false := by decide +kernel

/-- A rail whose two lowest fitted heads are silent, the lower one with the code TRAINING, and whose third has a stray TRAIN_OFF
waiting; and a rail with no fitted head. -/
theorem witness_RailTrain_skips :
    let s := withHead 2 { seen .restHeld with stray := true } (withHead 1 { seen .restHeld with missed := 8 }
      (withHead 0 { seen .training with missed := 8 } { serving with pillar := { serving.pillar with
        fitted := 0x000000FFFFFF#48 } }))
    let s := withRail .a (fun r => { r with upkeep := [{ cmd := .trainOff true, dock := 2 }] }) s
    s.settle.link.port ≠ .working ∧ s.settle.store.inService = true ∧ (s.settle.pillar.rail .a).training = none ∧
    ((railDocks .a).filter s.settle.pillar.isFitted).takeWhile (fun d => decide (8 ≤ (s.settle.pillar.head d).missed)) =
      [0, 1] ∧
    s.settle.pillar.waits 2 Cmd.isStray = true ∧ (railDocks .b).filter s.settle.pillar.isFitted = [] := by decide +kernel

theorem witness_Training_deadlines :
    (Training.start 0).step = .on ∧ ¬ { Training.start 0 with attempt := 3 }.attempt < 3 ∧
    ((training { Training.start 0 with step := .off, deadline := some 0, attempt := 2 }).pillar.rail .a).training =
      some { Training.start 0 with step := .off, deadline := some 0, attempt := 2 } ∧
    ((training { Training.start 0 with step := .off, deadline := some 0, attempt := 3 }).pillar.rail .a).training =
      some { Training.start 0 with step := .off, deadline := some 0, attempt := 3 } := by decide +kernel

/-- Training of head 1 of Rail A, over a head with a confirmed code, with a training message just out of the channel. -/
def trainDone (cmd : Cmd) (t : Option Training) (code : Code) (o : ChanOutcome) : State :=
  withRail .a (fun r => { r with
    training := t
    chan := { Channel.carry .upkeep { cmd := cmd, dock := 0 } with state := .idle, outcome := some o } })
    (withHead 0 (seen code) fresh)

theorem witness_TrainOutcome :
    let k : Training := { Training.start 0 with attempt := 2 }
    let s := trainDone .trainOn (some k) .restHeld .timeout
    (s.pillar.rail .a).chan.state = .idle ∧ (s.pillar.rail .a).chan.msg = some ({ cmd := .trainOn, dock := 0 }, .upkeep) ∧
    (s.pillar.rail .a).chan.outcome = some .timeout ∧ (s.pillar.rail .a).chan.orphan = false ∧
    (s.pillar.rail .a).training = some k ∧ k.dock = 0 ∧ railOf 0 = .a ∧ k.step = .on ∧ k.attempt < 3 ∧
    (s.pillar.head 0).confirmed ≠ some .training ∧
    ((trainDone .trainOn (some k) .training .aborted).pillar.head 0).confirmed = some .training ∧
    ((trainDone (.trainOff false) (some { k with step := .off }) .restEmpty .done).pillar.head 0).confirmed =
      some .restEmpty ∧
    ((trainDone (.trainOff false) (some { k with step := .off, attempt := 3 }) .training .echoError).pillar.rail .a).training =
      some { k with step := .off, attempt := 3 } := by decide +kernel

/-- A code confirmed for the head under training while its deadline runs, and the TRAINING code of a head that no training
names. -/
theorem witness_TrainCode :
    let s := fun (k : Training) (code : Code) =>
      withRail .a (fun r => { r with training := some k, codeDue := some (0, false) }) (withHead 0 (seen code) fresh)
    ((s { Training.start 0 with deadline := some 9 } .training).pillar.rail (railOf 0)).codeDue = some (0, false) ∧
    ((s { Training.start 0 with deadline := some 9 } .training).pillar.head 0).confirmed = some .training ∧
    { Training.start 0 with deadline := some 9 }.deadline.isSome = true ∧
    ((s { Training.start 0 with step := .off, deadline := some 9 } .restHeld).pillar.head 0).confirmed = some .restHeld ∧
    (Training.start 0).deadline = none ∧
    (let u := withRail .a (fun r => { r with codeDue := some (0, true) }) (withHead 0 (seen .training) fresh)
    (u.pillar.rail (railOf 0)).codeDue = some (0, true) ∧ (u.pillar.head 0).confirmed = some .training ∧
    u.pillar.underTraining 0 = false ∧ (u.pillar.head 0).stray = false) := by decide +kernel

theorem witness_StrayOutcome :
    let s := trainDone (.trainOff true) none .training .done
    (s.pillar.rail .a).chan.state = .idle ∧
    (s.pillar.rail .a).chan.msg = some ({ cmd := .trainOff true, dock := 0 }, .upkeep) ∧
    (s.pillar.rail .a).chan.outcome = some .done ∧ (s.pillar.rail .a).chan.orphan = false ∧
    (s.pillar.head 0).confirmed = some .training ∧ s.pillar.underTraining 0 = false ∧
    ((trainDone (.trainOff true) none .restHeld .timeout).pillar.head 0).confirmed ≠ some .training := by decide +kernel

/-! ### The rider link -/

theorem witness_RiderFrames :
    (waiting 3 fresh).settle.rider.inbox.length < 4 ∧ 4 ≤ (waiting 4 fresh).settle.rider.inbox.length ∧
    ((waiting 1 fresh).settle.rider.inbox = [] ++ { ref := 4#8, token := aToken } :: []) ∧
    fresh.settle.rider.inbox = [] ∧
    (checking aToken fresh).settle.tcu.check = some { pres := { ref := 4#8, token := aToken }, refInUse := false, ticks := 0 } ∧
    OutFrame.availability ∉ fresh.settle.pillar.out ∧
    { fresh with pillar := { fresh.pillar with tx := some (.availability 0 0 0 false true false) } }.settle.pillar.tx =
      some (.availability 0 0 0 false true false) := by decide +kernel

/-- A CANCEL for a ref that no presentation waits with: no grant has it, and grants in each phase do; and a QUERY while one
waits. -/
theorem witness_RiderFrames_passed_on :
    fresh.settle.tcu.check = none ∧ (∀ i, fresh.settle.pillar.grant i = none) ∧
    (granted .releasing .queued none fresh).settle.pillar.grantWithRef 4#8 = some (0, riderGrant .queued none) ∧
    (granted .releasing .queued none fresh).settle.rider.inbox = [] ∧
    (granted .releasing .confirming (some 9) fresh).settle.pillar.grantWithRef 4#8 =
      some (0, riderGrant .confirming (some 9)) ∧
    (granted .open .open (some 9) fresh).settle.pillar.grantWithRef 4#8 = some (0, riderGrant .open (some 9)) ∧
    (let s := withRail .a (fun r => { r with chan := .carry .rider { cmd := .release 71, dock := 0 } })
      (granted .releasing .sending none fresh)
    s.settle.pillar.grantWithRef 4#8 = some (0, riderGrant .sending none) ∧
    (s.settle.pillar.rail (railOf 0)).chan.msg = some ({ cmd := .release 71, dock := 0 }, .rider) ∧
    (s.settle.pillar.rail (railOf 0)).chan.outcome = none) ∧
    OutFrame.availability ∈ { fresh with pillar := { fresh.pillar with
      out := [.availability], tx := some (.availability 0 0 0 false true false) } }.settle.pillar.out := by decide +kernel

/-- The receiver in the middle of a frame. -/
def receiving (st : RxState) (sum : Byte) (gap : Nat) : State :=
  { fresh with rider := { fresh.rider with state := st, len := 1, sum := sum, bytes := [], gap := gap } }

theorem witness_Receiver :
    fresh.settle.rider.state = .hunt ∧ (receiving .length 0#8 0).settle.rider.state = .length ∧
    (receiving .body 1#8 20).settle.rider.state = .body ∧ (receiving .check 4#8 0).settle.rider.state = .check ∧
    (receiving .check 4#8 0).settle.rider.sum + 0xFD#8 ≠ 0#8 ∧ (1 ≤ (1#8).toNat ∧ (40#8).toNat ≤ 40) ∧ 40 < (41#8).toNat ∧
    ((receiving .body 1#8 21).rider.state ≠ .hunt ∧ 21 ≤ (receiving .body 1#8 21).rider.gap) := by decide +kernel

/-- The check byte of a PRESENT, a CANCEL and a QUERY, and of a CANCEL with a byte too many. -/
theorem witness_Receiver_accepts :
    let s := fun (bytes : List Byte) (sum : Byte) =>
      { fresh with rider := { fresh.rider with state := .check, len := bytes.length, sum := sum, bytes := bytes } }
    (s ([0x01#8, 4#8] ++ tokenBytes tagged) 7#8).settle.rider.state = .check ∧
    (s ([0x01#8, 4#8] ++ tokenBytes tagged) 7#8).settle.rider.sum + 0xF9#8 = 0#8 ∧
    (s ([0x01#8, 4#8] ++ tokenBytes tagged) 7#8).settle.rider.bytes = [0x01#8, 4#8] ++ tokenBytes tagged ∧
    (s [0x02#8, 23#8] 0x1B#8).settle.rider.sum + 0xE5#8 = 0#8 ∧ (s [0x03#8] 4#8).settle.rider.sum + 0xFC#8 = 0#8 ∧
    (s [0x02#8, 23#8, 1#8] 0#8).settle.rider.bytes.length ≠ 2 := by decide +kernel

/-! ### The rails -/

theorem witness_Baseline :
    ((withFilter 0 { drifting with bucket := 100 } fresh).pillar.filter 0).initialised = true ∧
    (withFilter 0 { drifting with bucket := 100 } fresh).store.work.bucket ≤
      ((withFilter 0 { drifting with bucket := 100 } fresh).pillar.filter 0).bucket ∧
    (withFilter 0 { drifting with lowRun := 20, lastRaw := some 0 } fresh).store.work.lowResetScans ≤
      ((withFilter 0 { drifting with lowRun := 20, lastRaw := some 0 } fresh).pillar.filter 0).lowRun ∧
    ((withFilter 0 { drifting with lowRun := 20, lastRaw := some 0 } fresh).pillar.filter 0).lastRaw = some 0 := by
  decide +kernel

/-- The channel at byte 1 and at the last byte of a RELEASE. -/
def offeringFirst : Channel := { Channel.carry .rider { cmd := .release 71, dock := 0 } with offerTake := some false }

def offeringLast : Channel := { offeringFirst with state := .offer, pos := 3, dropped := true }

theorem witness_ChannelJudges :
    offeringFirst.outcome = none ∧ offeringFirst.abort = .none ∧ offeringFirst.state = .offerFirst ∧
    offeringFirst.offerTake = some false ∧ offeringFirst.pulls = false ∧ offeringFirst.byte = 0x31#8 ∧
    offeringFirst.pos < offeringFirst.length ∧ { offeringFirst with offerTake := none }.offerTake ≠ some false ∧
    { offeringFirst with state := .gap }.state = .gap ∧ offeringLast.outcome = none ∧ offeringLast.abort = .none ∧
    offeringLast.state = .offer ∧ offeringLast.dropped = true ∧ offeringLast.offerTake = some false ∧
    offeringLast.pulls = false ∧ offeringLast.byte = 0x8B#8 ∧ ¬ offeringLast.pos < offeringLast.length := by decide +kernel

/-- The same in OFFER at byte 2, and at the first and the last pull byte of a TAG_READ. -/
theorem witness_ChannelJudges_offer :
    let offer := { offeringFirst with state := .offer, pos := 2 }
    let pull := { Channel.carry .upkeep { cmd := .tagRead, dock := 0 } with state := .offer, pos := 4, offerTake := some false }
    offer.outcome = none ∧ offer.abort = .none ∧ offer.pos < offer.length ∧ offer.byte = 0#8 ∧ offer.dropped = false ∧
    { offer with offerTake := none }.offerTake ≠ some false ∧ pull.pulls = true ∧ pull.outcome = none ∧
    pull.abort = .none ∧ pull.pos < pull.length ∧ ¬ { pull with pos := 12 }.pos < pull.length := by decide +kernel

/-- The frame of a RELEASE in progress, and a CANCEL that the tick itself passes to the grant whose RELEASE is in the
channel, from the check it ends. -/
theorem witness_ChannelJudges_frame :
    let s := withRail .a (fun r => { r with chan := offeringFirst, chanDelay := 8 })
      (granted .releasing .sending none fresh)
    let u := { s with tcu := { s.tcu with
      check := some { underCheck tagged with ticks := 2 }, heldCancel := some 4#8 } }
    (s.settle.meetBounds.pillar.rail .a).chan = offeringFirst ∧ (s.settle.meetBounds.pillar.rail .a).chanDelay = 8 ∧
    (s.settle.meetBounds.pillar.rail .a).chan.abort ≠ .asked ∧
    (u.settle.meetBounds.pillar.rail .a).chan.abort = .asked ∧ (u.settle.pillar.rail .a).chan.abort ≠ .asked ∧
    (u.settle.meetBounds.pillar.rail .a).chan.outcome = none := by decide +kernel

theorem witness_ChannelJudges_endings :
    { offeringLast with state := .ending, outcome := some .done }.frames = 0 ∧
    { offeringLast with state := .ending, frames := 1, outcome := some .done }.frames ≠ 0 ∧
    { offeringLast with state := .ending, frames := 1, outcome := some .aborted }.outcome ≠ some .done ∧
    { offeringLast with state := .closing, dropped := true }.dropped = true ∧
    { offeringLast with state := .closing, dropped := false }.dropped = false ∧
    { offeringLast with abort := .asked }.abort = .asked := by decide +kernel

/-- Rail A with a channel. -/
def carrying (ch : Channel) (s : State) : State := withRail .a (fun r => { r with chan := ch }) s

theorem witness_ChannelEvents :
    ((carrying { offeringFirst with due := .timeout } fresh).pillar.rail .a).chan.due = .timeout ∧
    ((carrying { offeringLast with state := .closing, due := .closing } fresh).pillar.rail .a).chan.due = .closing ∧
    ((carrying { offeringFirst with abort := .asked } fresh).pillar.rail .a).chan.abort = .asked ∧
    ((carrying { offeringFirst with abort := .due } fresh).pillar.rail .a).chan.abort = .due ∧
    ((carrying { offeringFirst with abort := .due } fresh).pillar.rail .a).chan.due ≠ .timeout ∧
    ((carrying { offeringFirst with abort := .due } fresh).pillar.rail .a).chan.outcome = none := by decide +kernel

/-- A RELEASE that has left the channel with outcome DONE, under its grant in SENDING. -/
def released : State :=
  carrying { offeringLast with state := .idle, outcome := some .done } (granted .releasing .sending none fresh)

theorem witness_ReleaseOutcome :
    (released.pillar.rail .a).chan.state = .idle ∧ (released.pillar.rail .a).chan.msg = some ({ cmd := .release 71, dock := 0 }, .rider) ∧
    (released.pillar.rail .a).chan.outcome = some .done ∧ (released.pillar.rail .a).chan.orphan = false ∧
    released.pillar.findGrant 71 = some (0, riderGrant .sending none) ∧ (riderGrant .sending none).phase = .sending ∧
    (riderGrant .sending none).dock = 0 ∧ (riderGrant .sending none).cancelPending = false := by decide +kernel

/-- A grant in RELOCK on dock 1 whose RELOCK has left the channel, over a head with a confirmed code. -/
def relockDone (o : ChanOutcome) (code : Code) : State :=
  carrying { Channel.carry .safety { cmd := .relock, dock := 0 } with state := .idle, outcome := some o }
    (withHead 0 (seen code) (granted .relocking .relock none fresh))

theorem witness_RelockOutcome :
    ((relockDone .done .open).pillar.rail .a).chan.state = .idle ∧
    ((relockDone .done .open).pillar.rail .a).chan.msg = some ({ cmd := .relock, dock := 0 }, .safety) ∧
    ((relockDone .done .open).pillar.rail .a).chan.outcome = some .done ∧
    ((relockDone .done .open).pillar.rail .a).chan.orphan = false ∧
    (relockDone .done .open).pillar.grantOf 0 = some (0, riderGrant .relock none) ∧
    ((relockDone .aborted .restHeld).pillar.head 0).confirmed = some .restHeld ∧
    ((relockDone .aborted .restEmpty).pillar.head 0).confirmed = some .restEmpty ∧
    (riderGrant .relock none).attempts < 3 ∧ ¬ { riderGrant .relock none with attempts := 3 }.attempts < 3 ∧
    ((withDock 0 { Dock.fresh .relocking with relock := some { attempt := 2, deadline := none } } fresh).pillar.dock 0).relock =
      some { attempt := 2, deadline := none } ∧ fresh.pillar.grantOf 0 = none := by decide +kernel

/-- A relock without a grant on dock 1, with an attempt, whose RELOCK has left the channel, over a head with a confirmed
code; and an outcome whose owner has withdrawn its interest. -/
def relockEnded (st : DockState) (attempt : Nat) (o : ChanOutcome) (code : Code) : State :=
  carrying { Channel.carry .safety { cmd := .relock, dock := 0 } with state := .idle, outcome := some o }
    (withHead 0 (seen code) (withDock 0 { held with state := st, relock := some { attempt := attempt, deadline := none } }
      { fresh with pillar := { fresh.pillar with order := [0] } }))

theorem witness_RelockOutcome_without_a_grant :
    ((relockEnded .relocking 3 .timeout .open).pillar.rail .a).chan.state = .idle ∧
    ((relockEnded .relocking 3 .timeout .open).pillar.rail .a).chan.msg = some ({ cmd := .relock, dock := 0 }, .safety) ∧
    ((relockEnded .relocking 3 .timeout .open).pillar.rail .a).chan.outcome = some .timeout ∧
    ((relockEnded .relocking 3 .timeout .open).pillar.rail .a).chan.orphan = false ∧
    (relockEnded .relocking 3 .timeout .open).pillar.grantOf 0 = none ∧
    ((relockEnded .relocking 3 .timeout .open).pillar.dock 0).relock = some { attempt := 3, deadline := none } ∧
    ((relockEnded .relocking 3 .timeout .open).pillar.dock 0).state = .relocking ∧
    ((relockEnded .fault 3 .timeout .open).pillar.dock 0).state ≠ .relocking ∧
    ((relockEnded .relocking 1 .aborted .restHeld).pillar.head 0).confirmed = some .restHeld ∧
    ((relockEnded .relocking 1 .aborted .restEmpty).pillar.head 0).confirmed = some .restEmpty ∧
    ((carrying { offeringLast with state := .idle, outcome := some .done, orphan := true } fresh).pillar.rail .a).chan.orphan =
      true := by decide +kernel

/-- The tag of the example of R188 with its check byte. -/
def tagReplies : List Byte := [0x21#8, 0#8, 0#8, 0#8, 0#8, 0#8, 0#8, 0#8, 0xDE#8]

/-- A TAG_READ that has left the channel with outcome DONE, for a dock in RETURNING. -/
def identified (records : Nat) : State :=
  carrying
    { Channel.carry .upkeep { cmd := .tagRead, dock := 0 } with state := .idle, outcome := some .done, replies := tagReplies }
    (withDock 0 { Dock.fresh .returning with ident := some { kind := .ret, attempt := 1 } }
      { fresh with pillar := { fresh.pillar with records := List.replicate records { time := none, body := .poorDock 0 } } })

theorem witness_TagOutcome :
    ((identified 63).pillar.rail .a).chan.state = .idle ∧
    ((identified 63).pillar.rail .a).chan.msg = some ({ cmd := .tagRead, dock := 0 }, .upkeep) ∧
    ((identified 63).pillar.rail .a).chan.outcome = some .done ∧ ((identified 63).pillar.rail .a).chan.orphan = false ∧
    ((identified 63).pillar.rail .a).chan.replies = tagReplies ∧ tagReplies.length = 9 ∧
    tagReplies.getD 8 0#8 = 255#8 - byteSum (tagReplies.take 8) ∧
    ((identified 63).pillar.dock 0).ident = some { kind := .ret, attempt := 1 } ∧
    (identified 63).pillar.records.length + (identified 63).pillar.active < 64 ∧
    64 ≤ (identified 64).pillar.records.length + (identified 64).pillar.active := by decide +kernel

/-- The same for a recovery, with the retained bike of that tag, of another, and with none. -/
theorem witness_TagOutcome_recovery :
    let s := fun (bike : Option Bike) => withDock 0 { Dock.fresh .returning with
      bike := bike, recovery := true, ident := some { kind := .recovery, attempt := 1 } } (identified 63)
    let tag : Tag := BitVec.ofNat 64 (beNat (tagReplies.take 8))
    ((s (some { tag := some tag, cls := .standard, condition := .reported })).pillar.dock 0).ident =
      some { kind := .recovery, attempt := 1 } ∧
    ((s (some { tag := some tag, cls := .standard, condition := .reported })).pillar.dock 0).bike.bind Bike.tag = some tag ∧
    ((s held.bike).pillar.dock 0).bike.bind Bike.tag ≠ some tag ∧ ((s held.bike).pillar.dock 0).bike.isSome = true ∧
    ((s none).pillar.dock 0).bike = none ∧ fresh.pillar.docks.toList.all (fun d => d.ident.isNone) = true := by decide +kernel

theorem witness_TagOutcome_failed :
    ChanOutcome.timeout ≠ .done ∧ ([] : List Byte).length ≠ 9 ∧
    [0x20#8, 0#8, 0#8, 0#8, 0#8, 0#8, 0#8, 0#8, 0xDE#8].getD 8 0#8 ≠
      255#8 - byteSum ([0x20#8, 0#8, 0#8, 0#8, 0#8, 0#8, 0#8, 0#8, 0xDE#8].take 8) ∧
    ((identified 63).pillar.dock 0).ident = some { kind := .ret, attempt := 1 } ∧
    { Ident.mk .ret 1 with attempt := 2 }.attempt < 3 ∧ ¬ { Ident.mk .ret 1 with attempt := 3 }.attempt < 3 := by decide +kernel

/-- A RELEASE of a QUEUED grant contends in RIDER behind nothing, with an idle channel and q = 15. -/
def contending : State :=
  withRail .a (fun r => { r with arbiterDue := true, rider := [{ cmd := .release 71, dock := 0 }] })
    (granted .releasing .queued none fresh)

theorem witness_Arbiter :
    ((withRail .a (fun r => { r with restoreDue := true }) fresh).pillar.rail .a).restoreDue = true ∧
    (contending.pillar.rail .a).arbiterDue = true ∧ (contending.pillar.rail .a).restoreDue = false ∧
    (contending.pillar.rail .a).arbitrate = some (.rider, { cmd := .release 71, dock := 0 }) ∧
    (contending.pillar.rail .a).contending .rider = some { cmd := .release 71, dock := 0 } ∧
    (contending.pillar.rail .a).threshold .rider ≤ (contending.pillar.rail .a).quiet ∧
    (withRail .a (fun r => { r with arbiterDue := true }) fresh).pillar.railA.arbiterDue = true ∧
    (withRail .a (fun r => { r with arbiterDue := true }) fresh).pillar.railA.rider = [] ∧
    { contending.pillar.railA with quiet := 4 }.quiet < contending.pillar.railA.threshold .rider ∧
    contending.pillar.findGrant 71 = some (0, riderGrant .queued none) := by decide +kernel

/-! ### Events of the docks -/

/-- An event mark on Rail A. -/
def marked (f : Rail → Rail) (s : State) : State := withRail .a f s

def silentNow (records : Nat) : State :=
  marked (fun r => { r with silentDue := some 23 })
    { fresh with pillar := { fresh.pillar with records := List.replicate records { time := none, body := .poorDock 0 } } }

theorem witness_Silent :
    ((silentNow 63).pillar.rail (railOf 23)).silentDue = some 23 ∧ (silentNow 63).pillar.grantOf 23 = none ∧
    (silentNow 63).pillar.underTraining 23 = false ∧ ((silentNow 63).pillar.dock 23).state ≠ .fault ∧
    ((silentNow 63).pillar.dock 23).state ≠ .unfitted ∧
    (silentNow 63).pillar.records.length + (silentNow 63).pillar.active < 64 ∧
    64 ≤ (silentNow 64).pillar.records.length + (silentNow 64).pillar.active := by decide +kernel

/-- A silent report on a dock in FAULT, for the head under training, and for a head whose message is in the channel, before and
after its outcome is decided. -/
theorem witness_Silent_elsewhere :
    ((withDock 23 { held with state := .fault, relock := some { attempt := 2, deadline := some 9 } } (silentNow 0)).pillar.dock 23).state =
      .fault ∧
    (withRail .a (fun r => { r with training := some (.start 23) }) (silentNow 0)).pillar.underTraining 23 = true ∧
    (let s := carrying (Channel.carry .upkeep { cmd := .tagRead, dock := 23 }) (silentNow 0)
    (s.pillar.rail (railOf 23)).chan.msg = some ({ cmd := .tagRead, dock := 23 }, .upkeep) ∧
    (s.pillar.rail (railOf 23)).chan.outcome = none ∧ (s.pillar.rail (railOf 23)).chan.state ≠ .idle ∧
    (s.pillar.rail (railOf 23)).silentDue = some 23) ∧
    ({ offeringLast with state := .closing, outcome := some .done } : Channel).outcome.isSome = true := by decide +kernel

/-- Dock 1 under a grant in a phase, with dock 48 DOCKED behind it in the Dock Order List, and an event mark on Rail A. -/
def beside (phase : Phase) (st : DockState) (f : Rail → Rail) : State :=
  let s := withDock 47 held (granted st phase none fresh)
  withRail .a f { s with pillar := { s.pillar with order := [0, 47] } }

theorem witness_Silent_held :
    ((beside .queued .releasing (fun r => { r with silentDue := some 0 })).pillar.rail (railOf 0)).silentDue = some 0 ∧
    (beside .queued .releasing (fun r => { r with silentDue := some 0 })).pillar.grantOf 0 =
      some (0, riderGrant .queued none) ∧
    ((beside .queued .releasing (fun r => { r with silentDue := some 0 })).pillar.dock 0).state ≠ .docked ∧
    ((beside .queued .releasing (fun r => { r with silentDue := some 0 })).pillar.dock 0).state ≠ .fault ∧
    (beside .queued .releasing (fun r => { r with silentDue := some 0 })).pillar.walk 0#8 = some 47 ∧
    (riderGrant .queued none).moved = false ∧ (riderGrant .queued none).cancelPending = false ∧
    (granted .releasing .queued none fresh).pillar.walk 0#8 = none ∧
    (beside .open .open (fun r => { r with silentDue := some 0 })).pillar.grantOf 0 = some (0, riderGrant .open none) := by
  decide +kernel

/-- A code confirmed for dock 1, in a state of the dock. -/
def confirmed (first : Bool) (code : Code) (st : DockState) : State :=
  marked (fun r => { r with codeDue := some (0, first) }) (withHead 0 (seen code) (withDock 0 (.fresh st) fresh))

theorem witness_FirstCode :
    ((confirmed true .restHeld .silent).pillar.rail (railOf 0)).codeDue = some (0, true) ∧
    ((confirmed true .restHeld .silent).pillar.head 0).confirmed = some .restHeld ∧
    (confirmed true .restHeld .silent).pillar.grantOf 0 = none ∧
    ((confirmed true .restHeld .silent).pillar.dock 0).state = .silent ∧
    ((confirmed true .restEmpty .silent).pillar.head 0).confirmed = some .restEmpty ∧
    ((confirmed true .open .silent).pillar.head 0).confirmed = some .open ∧
    ((confirmed true .jammed .silent).pillar.head 0).confirmed = some .jammed ∧
    ((confirmed true .training .silent).pillar.head 0).confirmed = some .training := by decide +kernel

theorem witness_Change :
    ((confirmed false .restHeld .silent).pillar.dock 0).state = .silent ∧
    ((confirmed false .training .docked).pillar.head 0).confirmed = some .training ∧
    ((confirmed false .jammed .fault).pillar.dock 0).relock = none ∧
    ((confirmed false .jammed .fault).pillar.dock 0).state = .fault ∧
    (withRail .a (fun r => { r with training := some (Training.start 0) })
      (confirmed false .restHeld .empty)).pillar.underTraining 0 = true ∧
    ((confirmed false .restHeld .empty).pillar.rail (railOf 0)).codeDue = some (0, false) ∧
    ((confirmed false .restHeld .empty).pillar.head 0).confirmed = some .restHeld ∧
    (confirmed false .restHeld .empty).pillar.grantOf 0 = none ∧
    ((confirmed false .restHeld .empty).pillar.dock 0).state = .empty ∧
    ((confirmed false .restHeld .empty).pillar.dock 0).recovery = false ∧
    ((confirmed false .restEmpty .docked).pillar.dock 0).state = .docked ∧
    ((confirmed false .restEmpty .docked).pillar.head 0).confirmed = some .restEmpty ∧
    ((confirmed false .open .returning).pillar.dock 0).state = .returning ∧
    ((confirmed false .open .returning).pillar.dock 0).relock = none ∧
    ((confirmed false .jammed .relocking).pillar.dock 0).state = .relocking ∧
    ((confirmed false .jammed .relocking).pillar.head 0).confirmed = some .jammed := by decide +kernel

theorem witness_Change_relocking :
    ((confirmed false .restEmpty .returning).pillar.dock 0).recovery = false ∧
    ((withDock 0 { Dock.fresh .returning with recovery := true } (confirmed false .restEmpty .returning)).pillar.dock 0).recovery =
      true ∧
    ((withDock 0 { held with state := .relocking, relock := some { attempt := 1, deadline := some 300 } }
      (confirmed false .restHeld .relocking)).pillar.dock 0).relock = some { attempt := 1, deadline := some 300 } ∧
    ((withDock 0 { held with state := .relocking, relock := some { attempt := 1, deadline := some 300 } }
      (confirmed false .restHeld .relocking)).pillar.dock 0).bike.isSome = true ∧
    (confirmed false .restHeld .relocking).pillar.waits 0 Cmd.isRelock = false ∧
    (marked (fun r => { r with safety := [{ cmd := .relock, dock := 0 }] })
      (confirmed false .restEmpty .relocking)).pillar.waits 0 Cmd.isRelock = true := by decide +kernel

/-- Dock 1 under a grant, with OPEN just confirmed, and with the bike just gone. -/
def opening : State :=
  marked (fun r => { r with codeDue := some (0, false) })
    (withHead 0 (seen .open) (granted .releasing .confirming (some 300) fresh))

def leaving : State :=
  marked (fun r => { r with presenceDue := some (0, false) }) (granted .open .open (some 20000) fresh)

theorem witness_Grants :
    (opening.pillar.rail (railOf 0)).codeDue = some (0, false) ∧ (opening.pillar.head 0).confirmed = some .open ∧
    opening.pillar.grantOf 0 = some (0, riderGrant .confirming (some 300)) ∧
    (leaving.pillar.rail (railOf 0)).presenceDue = some (0, false) ∧
    leaving.pillar.grantOf 0 = some (0, riderGrant .open (some 20000)) ∧ (riderGrant .open (some 20000)).rider.isSome = true := by
  decide +kernel

/-- A code confirmed for dock 1 under a grant in each phase. -/
def confirmedUnder (code : Code) (phase : Phase) (timer : Option Nat) : State :=
  marked (fun r => { r with codeDue := some (0, false) }) (withHead 0 (seen code) (granted .releasing phase timer fresh))

theorem witness_Grants_by_phase :
    ((confirmedUnder .open .queued none).pillar.rail (railOf 0)).codeDue = some (0, false) ∧
    (confirmedUnder .open .queued none).pillar.grantOf 0 = some (0, riderGrant .queued none) ∧
    (confirmedUnder .open .sending none).pillar.grantOf 0 = some (0, riderGrant .sending none) ∧
    { riderGrant .sending none with cancelPending := true }.cancelPending = true ∧
    ((confirmedUnder .restEmpty .confirming (some 9)).pillar.head 0).confirmed = some .restEmpty ∧
    ((confirmedUnder .restHeld .open (some 9)).pillar.head 0).confirmed = some .restHeld ∧
    (confirmedUnder .restHeld .relock (some 9)).pillar.grantOf 0 = some (0, riderGrant .relock (some 9)) ∧
    (riderGrant .relock (some 9)).timer.isSome = true ∧
    (confirmedUnder .restHeld .relock none).pillar.waits 0 Cmd.isRelock = false ∧
    (riderGrant .relock (some 9)).latePull = false ∧ { riderGrant .relock (some 9) with latePull := true }.latePull = true ∧
    (marked (fun r => { r with presenceDue := some (0, false) }) (granted .relocking .relock (some 9) fresh)).pillar.grantOf 0 =
      some (0, riderGrant .relock (some 9)) := by decide +kernel

theorem witness_Jammed :
    ((confirmedUnder .jammed .sending none).pillar.rail (railOf 0)).codeDue = some (0, false) ∧
    ((confirmedUnder .jammed .sending none).pillar.head 0).confirmed = some .jammed ∧
    (confirmedUnder .jammed .sending none).pillar.grantOf 0 = some (0, riderGrant .sending none) ∧
    ((confirmedUnder .jammed .sending none).pillar.dock 0).state ≠ .docked ∧
    (confirmedUnder .jammed .sending none).pillar.walk 0#8 = none ∧
    (beside .sending .releasing (fun r => { r with codeDue := some (0, false) })).pillar.walk 0#8 = some 47 ∧
    (confirmedUnder .jammed .open (some 9)).pillar.grantOf 0 = some (0, riderGrant .open (some 9)) ∧
    (confirmedUnder .jammed .relock (some 9)).pillar.grantOf 0 = some (0, riderGrant .relock (some 9)) := by decide +kernel

theorem witness_SeatWatch :
    let s := withDock 0 (.fresh .empty) fresh
    s.pillar.grantOf 0 = none ∧ (s.pillar.dock 0).state = .empty ∧ (s.pillar.dock 0).watch = none ∧ (s.pillar.dock 0).poor = false ∧
    ((marked (fun r => { r with presenceDue := some (0, true) }) s).pillar.rail (railOf 0)).presenceDue = some (0, true) ∧
    ((marked (fun r => { r with presenceDue := some (0, false) }) s).pillar.rail (railOf 0)).presenceDue = some (0, false) ∧
    ((withDock 0 { Dock.fresh .empty with watch := some 0 } fresh).pillar.dock 0).watch = some 0 ∧
    ((withDock 0 { Dock.fresh .empty with watch := some 0 } fresh).pillar.dock 0).state = .empty := by decide +kernel

theorem witness_Deadlines :
    ((withDock 0 { Dock.fresh .relocking with relock := some { attempt := 2, deadline := some 0 } } fresh).pillar.dock 0).relock =
      some { attempt := 2, deadline := some 0 } ∧
    (granted .releasing .confirming (some 0) fresh).pillar.findGrant (71#8).toNat = some (0, riderGrant .confirming (some 0)) ∧
    (granted .open .open (some 0) fresh).pillar.findGrant (71#8).toNat = some (0, riderGrant .open (some 0)) ∧
    (granted .relocking .relock (some 0) fresh).pillar.findGrant (71#8).toNat = some (0, riderGrant .relock (some 0)) ∧
    (riderGrant .relock (some 0)).attempts < 3 := by decide +kernel

theorem witness_Deadlines_third :
    ((withDock 0 { Dock.fresh .relocking with relock := some { attempt := 3, deadline := some 0 } } fresh).pillar.dock 0).relock =
      some { attempt := 3, deadline := some 0 } ∧
    ((withDock 0 { Dock.fresh .fault with relock := some { attempt := 3, deadline := some 0 } } fresh).pillar.dock 0).state ≠
      .relocking ∧
    (withGrant 0 { riderGrant .confirming (some 0) with attempts := 3 } (granted .releasing .confirming (some 0) fresh)).pillar.findGrant
      (71#8).toNat = some (0, { riderGrant .confirming (some 0) with attempts := 3 }) ∧
    ((granted .releasing .confirming (some 0) fresh).pillar.dock 0).state ≠ .docked ∧
    (withGrant 0 { riderGrant .relock (some 0) with attempts := 3 } (granted .relocking .relock (some 0) fresh)).pillar.findGrant
      (71#8).toNat = some (0, { riderGrant .relock (some 0) with attempts := 3 }) := by decide +kernel

/-! ### The invariants: a state that is not the reset state, and a step it takes -/

theorem witness_PortAndReady : working.portOk ∧ ∃ t, step (queued .status working) = .next t :=
  ⟨by unfold State.portOk; decide +kernel, _, rfl⟩

theorem witness_Attention : (identified 63).pillar.attentionOk ∧ ∃ t, step (queued (.readRecords 8#8) (identified 63)) = .next t :=
  ⟨by unfold Pillar.attentionOk; decide +kernel, _, rfl⟩

theorem witness_Room : (identified 64).pillar.roomOk ∧ ∃ t, step (queued (.channelOutcome .a) (identified 64)) = .next t :=
  ⟨by unfold Pillar.roomOk; decide +kernel, _, rfl⟩

theorem factory_ok : Settings.factory.ok := by
  unfold Settings.ok
  refine ⟨fun n _ => ?_, by decide⟩
  cases n <;> decide +kernel

theorem witness_Settings :
    storing.settingsOk ∧ ∃ t, step (queued (.settingWrite 12#8 0#8 300#48) storing) = .next t := by
  refine ⟨?_, _, rfl⟩
  unfold State.settingsOk Image.ok trimOk
  refine ⟨factory_ok, by decide +kernel, by decide +kernel, ⟨factory_ok, by decide +kernel, by decide +kernel⟩, ?_⟩
  intro run h
  cases h
  exact ⟨factory_ok, by decide +kernel, by decide +kernel⟩

theorem witness_Clock :
    (labelled 4294967295 999).clock.ok ∧ ∃ t, step (queued (.msTick noReply noReply) (labelled 4294967295 999)) = .next t := by
  refine ⟨?_, _, rfl⟩
  have aligned : ∀ a, (labelled 4294967295 999).clock.aligned = some a → a.seconds ≤ Config.secondMax := nofun
  unfold Clock.ok
  repeat' refine And.intro (by decide +kernel) ?_
  exact aligned

theorem witness_Lists :
    (denied [2#32, 9#32] (spending none)).tcu.denyOk ∧ (spending none).pillar.spentOk ∧
    ∃ t, step (queued .verificationEnd (denied [2#32, 9#32] (spending none))) = .next t := by
  refine ⟨denyOk_two _ rfl, ?_, _, rfl⟩
  unfold Pillar.spentOk
  decide +kernel

theorem witness_GrantsIdentity :
    (granted .open .open (some 9) fresh).pillar.grantsOk ∧
    ∃ t, step (queued (.staffRelease 48#8) (granted .open .open (some 9) dockedLast)) = .next t := by
  refine ⟨?_, _, rfl⟩
  have first : (granted .open .open (some 9) fresh).pillar.grant 0 = some (riderGrant .open (some 9)) := by decide +kernel
  have others : ∀ i, i = 0 ∨ (granted .open .open (some 9) fresh).pillar.grant i = none := by decide +kernel
  have only : ∀ i g, (granted .open .open (some 9) fresh).pillar.grant i = some g → i = 0 := fun i g h => by
    rcases others i with e | e
    · exact e
    · rw [e] at h
      cases h
  unfold Pillar.grantsOk
  refine ⟨by decide +kernel, fun i g h => ?_, fun i j g h hi hj hij => ?_, fun i j g h x y hi hj hij => ?_⟩
  · obtain rfl := only i g h
    rw [first] at h
    cases h
    exact ⟨by decide, by decide⟩
  · exact absurd ((only i g hi).trans (only j h hj).symm) hij
  · exact absurd ((only i g hi).trans (only j h hj).symm) hij

theorem witness_Links :
    (granted .open .open (some 9) fresh).pillar.grantsOk ∧ (granted .open .open (some 9) fresh).pillar.linksOk ∧
    ∃ t, step (queued (.staffRelease 48#8) (granted .open .open (some 9) fresh)) = .next t := by
  refine ⟨witness_GrantsIdentity.1, ?_, _, rfl⟩
  have first : (granted .open .open (some 9) fresh).pillar.grant 0 = some (riderGrant .open (some 9)) := by decide +kernel
  have others : ∀ i, i = 0 ∨ (granted .open .open (some 9) fresh).pillar.grant i = none := by decide +kernel
  have rest : ∀ d, d = 0 ∨ (granted .open .open (some 9) fresh).pillar.dock d = Dock.fresh .silent := by decide +kernel
  have dock : (granted .open .open (some 9) fresh).pillar.dock 0 = { held with state := .open, grant := some 71 } := by
    decide +kernel
  unfold Pillar.linksOk
  refine ⟨fun i g h => ?_, fun d id h => ?_, fun d h => ?_, fun e he id h => ?_, fun d e id x y hne h => ?_, fun d h => ?_,
    fun d h => ?_, fun d h => ?_⟩
  · rcases others i with rfl | e
    · rw [first] at h
      cases h
      exact ⟨by decide +kernel, by decide +kernel⟩
    · rw [e] at h
      cases h
  · rcases rest d with rfl | e
    · rw [dock] at h
      cases h
      exact ⟨0, _, first, rfl, rfl⟩
    · rw [e] at h
      cases h
  · rcases rest d with rfl | e
    · decide +kernel
    · rw [e] at h
      rcases h with h | h <;> cases h
  · have spent : (granted .open .open (some 9) fresh).pillar.spent =
        [{ serial := 600101#32, notAfter := 900, grant := some 71 }] := by decide +kernel
    rw [spent, List.mem_singleton] at he
    subst he
    cases h
    exact ⟨0, _, _, first, rfl, rfl, rfl⟩
  · have key : ∀ d, ((granted .open .open (some 9) fresh).pillar.dock d).hold = none := by decide +kernel
    rw [key d] at h
    cases h
  · have key : ∀ d, ((granted .open .open (some 9) fresh).pillar.dock d).relock = none := by decide +kernel
    rw [key d] at h
    cases h
  · have key : ∀ d, ((granted .open .open (some 9) fresh).pillar.dock d).ident = none := by decide +kernel
    rw [key d] at h
    cases h
  · have key : ∀ d, (granted .open .open (some 9) fresh).pillar.isFitted d = true := by decide +kernel
    rw [key d] at h
    cases h

theorem witness_Order :
    dockedLast.pillar.orderOk ∧ ∃ t, step (queued (.staffRelease 48#8) dockedLast) = .next t := by
  refine ⟨?_, _, rfl⟩
  unfold Pillar.orderOk
  refine ⟨by decide +kernel, by decide +kernel, fun d => ⟨?_, ?_, ?_⟩⟩
  · revert d
    decide +kernel
  · revert d
    decide +kernel
  · have key : ∀ d, (dockedLast.pillar.dock d).ident = none := by decide +kernel
    intro i h
    rw [key d] at h
    cases h

theorem witness_Keys :
    (keyed fresh).tcu.held = none ∧ wellFormed .suspend = true ∧ (∃ t, exec .suspend (keyed fresh) = .next t) ∧
    (∀ cause, Instr.suspend ≠ .reset cause) ∧ (∀ slot epoch key, Instr.suspend ≠ .keyLoad slot epoch key) ∧
    (∀ slot, Instr.suspend ≠ .keyDrop slot) ∧ Instr.suspend ≠ .restoreFactory ∧
    ∀ bytes, Instr.suspend ≠ .writeSelectionInvalid bytes :=
  ⟨rfl, rfl, ⟨_, rfl⟩, nofun, nofun, nofun, nofun, nofun⟩

/-! ### Encodings -/

theorem witness_RequestFrames :
    wellFormed (.denyAdd 19#8 (List.replicate 19 0xFFFFFFFF#32)) = true ∧
    commandRequest (.denyAdd 19#8 (List.replicate 19 0xFFFFFFFF#32)) = some (.denyAdd 19#8 (List.replicate 19 0xFFFFFFFF#32)) := by
  decide +kernel

theorem witness_FramesReadBack : fresh.rider.state = .hunt := rfl

/-- The frame of a request reads back, and the CRC of R2 has the check value of its polynomial. -/
theorem test_request_reads_back :
    examineFrame (stationFrame (requestContent (.keyLoad 1#8 3#8 0x00112233445566778899AABBCCDDEEFF#128))) =
      .valid (.keyLoad 1#8 3#8 0x00112233445566778899AABBCCDDEEFF#128) := by decide +kernel
theorem test_request_deny_add :
    examineFrame (stationFrame (requestContent (.denyAdd 2#8 [5#32, 0xFFFFFFFE#32]))) =
      .valid (.denyAdd 2#8 [5#32, 0xFFFFFFFE#32]) := by decide +kernel
theorem test_present_reads_back :
    (RiderRx.feed (riderFrame ([0x01#8, 4#8] ++ tokenBytes aToken)) fresh.rider).2 = [.present 4#8 aToken] := by decide +kernel
theorem test_crc : crc32 [0x31#8, 0x32#8, 0x33#8, 0x34#8, 0x35#8, 0x36#8, 0x37#8, 0x38#8, 0x39#8] = 0xCBF43926#32 := by
  decide +kernel

end Sys2Proof.Tests
end

