-- ==== Sys2Proof/Proofs/Delays.lean ====
section
/-!
PROOFS. The sample delays of the heads (R132, R151): the operations of the pillar leave them as they are, but for the end of
a training sweep (R155), which is left to the next file.
-/

namespace Sys2Proof.Machine

/-- The SAMPLE_DELAY of each head (R132, R181). -/
def Pillar.delays (p : Pillar) (d : DockNo) : Nat := (p.head d).delay

/-! ## Writes to one entry, and the queues -/

@[simp] theorem setDock_delays (p : Pillar) (d : DockNo) (x : Dock) : (p.setDock d x).delays = p.delays := rfl
@[simp] theorem setFilter_delays (p : Pillar) (d : DockNo) (x : Filter) : (p.setFilter d x).delays = p.delays := rfl
@[simp] theorem setGrant_delays (p : Pillar) (i : Fin 8) (x : Option Grant) : (p.setGrant i x).delays = p.delays := rfl
@[simp] theorem setRail_delays (p : Pillar) (r : RailId) (x : Rail) : (p.setRail r x).delays = p.delays := by
  cases r <;> rfl
@[simp] theorem modDock_delays (p : Pillar) (d : DockNo) (f : Dock → Dock) : (p.modDock d f).delays = p.delays := rfl
@[simp] theorem modFilter_delays (p : Pillar) (d : DockNo) (f : Filter → Filter) :
    (p.modFilter d f).delays = p.delays := rfl
@[simp] theorem modRail_delays (p : Pillar) (r : RailId) (f : Rail → Rail) : (p.modRail r f).delays = p.delays :=
  setRail_delays p r _

/-- A write to a head keeps the delays when the head written has the delay of the head before. -/
@[simp] theorem setHead_delays {p : Pillar} {d : DockNo} {x : Head} (h : x.delay = (p.head d).delay) :
    (p.setHead d x).delays = p.delays := by
  funext e
  simp only [Pillar.delays, setHead_head]
  split
  · next hd => rw [h, hd]
  · rfl

@[simp] theorem modHead_delays {p : Pillar} {d : DockNo} {f : Head → Head} (h : ∀ x, (f x).delay = x.delay) :
    (p.modHead d f).delays = p.delays := setHead_delays (h _)

@[simp] theorem join_delays (s : Source) (m : Msg) (p : Pillar) : (p.join s m).delays = p.delays := modRail_delays ..
@[simp] theorem placeAgain_delays (s : Source) (m : Msg) (p : Pillar) : (p.placeAgain s m).delays = p.delays :=
  modRail_delays ..
@[simp] theorem drop_delays (d : DockNo) (test : Cmd → Bool) (p : Pillar) : (p.drop d test).delays = p.delays :=
  modRail_delays ..
@[simp] theorem enter_delays (c : Ctx) (body : RecordBody) (p : Pillar) : (p.enter c body).delays = p.delays := rfl
@[simp] theorem lesser_delays (c : Ctx) (body : RecordBody) (p : Pillar) : (p.lesser c body).delays = p.delays := by
  unfold Pillar.lesser; split <;> rfl
@[simp] theorem send_delays (f : OutFrame) (p : Pillar) : (p.send f).delays = p.delays := rfl
@[simp] theorem sendFinal_delays (ref : Byte) (o : RiderOutcome) (d : DockNo) (p : Pillar) :
    (p.sendFinal ref o d).delays = p.delays := by
  unfold Pillar.sendFinal; split <;> rfl
@[simp] theorem transmit_delays (c : Ctx) (p : Pillar) : (p.transmit c).delays = p.delays := by
  unfold Pillar.transmit; split <;> rfl

/-- A chain of operations that each keep the delays keeps them. -/
theorem foldl_delays {α : Type} {f : Pillar → α → Pillar} (h : ∀ p x, (f p x).delays = p.delays) (l : List α)
    (p : Pillar) : (l.foldl f p).delays = p.delays := by
  induction l generalizing p with
  | nil => rfl
  | cons x xs ih => rw [List.foldl_cons, ih, h]

@[simp] theorem relampDock_delays (before p : Pillar) (d : DockNo) : (before.relampDock p d).delays = p.delays := by
  rcases relampDock_cases before p d with h | ⟨-, -, -, h⟩ <;> simp [h]
@[simp] theorem relamp_delays (before p : Pillar) : (before.relamp p).delays = p.delays :=
  foldl_delays (relampDock_delays before) _ _
@[simp] theorem event_delays (c : Ctx) (f : Pillar → Pillar) (p : Pillar) :
    (p.event c f).delays = (f p).delays := by
  simp [Pillar.event]
@[simp] theorem eventIf_delays {c : Ctx} {due : Bool} {f : Pillar → Pillar} {p : Pillar}
    (h : (f p).delays = p.delays) : (p.eventIf c due f).delays = p.delays := by
  unfold Pillar.eventIf; split <;> simp [h]

/-! ## The Dock Manager -/

@[simp] theorem enterState_delays (d : DockNo) (st : DockState) (p : Pillar) :
    (p.enterState d st).delays = p.delays := rfl
@[simp] theorem enterEmpty_delays (c : Ctx) (d : DockNo) (p : Pillar) : (p.enterEmpty c d).delays = p.delays := by
  unfold Pillar.enterEmpty; dsimp only; split <;> rfl
@[simp] theorem clearBike_delays (d : DockNo) (p : Pillar) : (p.clearBike d).delays = p.delays := rfl
@[simp] theorem addBike_delays (d : DockNo) (tag : Option Tag) (p : Pillar) : (p.addBike d tag).delays = p.delays := rfl
@[simp] theorem endIdent_delays (d : DockNo) (p : Pillar) : (p.endIdent d).delays = p.delays := by
  simp [Pillar.endIdent]
@[simp] theorem endRelock_delays (d : DockNo) (p : Pillar) : (p.endRelock d).delays = p.delays := by
  simp [Pillar.endRelock]
@[simp] theorem startRelock_delays (d : DockNo) (p : Pillar) : (p.startRelock d).delays = p.delays := by
  unfold Pillar.startRelock; split <;> simp
@[simp] theorem startIdent_delays (d : DockNo) (p : Pillar) : (p.startIdent d).delays = p.delays := by
  simp [Pillar.startIdent]
@[simp] theorem faultDock_delays (c : Ctx) (d : DockNo) (cause : FaultCause) (p : Pillar) :
    (p.faultDock c d cause).delays = p.delays := by
  simp [Pillar.faultDock]
@[simp] theorem makeReturn_delays (c : Ctx) (d : DockNo) (tag : Option Tag) (p : Pillar) :
    (p.makeReturn c d tag).delays = p.delays := by
  unfold Pillar.makeReturn; dsimp only; split <;> rfl
@[simp] theorem completeReturn_delays (c : Ctx) (d : DockNo) (tag : Option Tag) (p : Pillar) :
    (p.completeReturn c d tag).delays = p.delays := by
  simp [Pillar.completeReturn]
@[simp] theorem recoverMismatch_delays (c : Ctx) (d : DockNo) (tag : Option Tag) (p : Pillar) :
    (p.recoverMismatch c d tag).delays = p.delays := by
  unfold Pillar.recoverMismatch; dsimp only; split <;> simp
@[simp] theorem recoverMatch_delays (c : Ctx) (d : DockNo) (tag : Tag) (p : Pillar) :
    (p.recoverMatch c d tag).delays = p.delays := by
  simp [Pillar.recoverMatch]
@[simp] theorem tagOutcome_delays (c : Ctx) (d : DockNo) (tag : Option Tag) (p : Pillar) :
    (p.tagOutcome c d tag).delays = p.delays := by
  unfold Pillar.tagOutcome; (repeat' split) <;> simp
@[simp] theorem relockAtRest_delays (c : Ctx) (d : DockNo) (held : Bool) (p : Pillar) :
    (p.relockAtRest c d held).delays = p.delays := by
  unfold Pillar.relockAtRest; dsimp only; (repeat' split) <;> simp
@[simp] theorem relockAttemptFailed_delays (c : Ctx) (d : DockNo) (p : Pillar) :
    (p.relockAttemptFailed c d).delays = p.delays := by
  unfold Pillar.relockAttemptFailed; (repeat' split) <;> simp
@[simp] theorem relockTransferEnd_delays (c : Ctx) (d : DockNo) (o : ChanOutcome) (p : Pillar) :
    (p.relockTransferEnd c d o).delays = p.delays := by
  unfold Pillar.relockTransferEnd; (repeat' split) <;> simp
@[simp] theorem relockChange_delays (c : Ctx) (d : DockNo) (held : Bool) (p : Pillar) :
    (p.relockChange c d held).delays = p.delays := by
  unfold Pillar.relockChange; (repeat' split) <;> simp
@[simp] theorem recover_delays (c : Ctx) (d : DockNo) (code : Code) (p : Pillar) :
    (p.recover c d code).delays = p.delays := by
  cases code <;> simp only [Pillar.recover] <;> (repeat' split) <;> simp
@[simp] theorem openedWithoutGrant_delays (d : DockNo) (p : Pillar) : (p.openedWithoutGrant d).delays = p.delays := by
  simp [Pillar.openedWithoutGrant]
@[simp] theorem returnGone_delays (c : Ctx) (d : DockNo) (p : Pillar) : (p.returnGone c d).delays = p.delays := by
  unfold Pillar.returnGone; dsimp only; (repeat' split) <;> simp
@[simp] theorem bikeMissing_delays (c : Ctx) (d : DockNo) (p : Pillar) : (p.bikeMissing c d).delays = p.delays := by
  simp [Pillar.bikeMissing]
@[simp] theorem dockCode_delays (c : Ctx) (d : DockNo) (code : Code) (p : Pillar) :
    (p.dockCode c d code).delays = p.delays := by
  unfold Pillar.dockCode; split <;> simp
@[simp] theorem dockPresent_delays (c : Ctx) (d : DockNo) (p : Pillar) : (p.dockPresent c d).delays = p.delays := by
  unfold Pillar.dockPresent; dsimp only; split <;> rfl
@[simp] theorem dockAbsent_delays (d : DockNo) (p : Pillar) : (p.dockAbsent d).delays = p.delays := by
  unfold Pillar.dockAbsent; split <;> rfl
@[simp] theorem poorDockExpired_delays (c : Ctx) (d : DockNo) (p : Pillar) :
    (p.poorDockExpired c d).delays = p.delays := by
  simp [Pillar.poorDockExpired]
@[simp] theorem lapseDock_delays (c : Ctx) (sec : Nat) (p : Pillar) (d : DockNo) :
    (p.lapseDock c sec d).delays = p.delays := by
  unfold Pillar.lapseDock; (repeat' split) <;> simp
@[simp] theorem lapse_delays (c : Ctx) (sec : Nat) (p : Pillar) : (p.lapse c sec).delays = p.delays :=
  foldl_delays (lapseDock_delays c sec) _ _

/-! ## The Grant Engine -/

@[simp] theorem endGrant_delays (c : Ctx) (i : Fin 8) (o : FinalOutcome) (detail : Detail) (tag : Option Tag)
    (p : Pillar) : (p.endGrant c i o detail tag).delays = p.delays := by
  unfold Pillar.endGrant
  split
  · rfl
  · dsimp only
    split
    · exact sendFinal_delays ..
    · rfl
@[simp] theorem takeDock_delays (d : DockNo) (id : Nat) (p : Pillar) : (p.takeDock d id).delays = p.delays := rfl
@[simp] theorem endInPlace_delays (d : DockNo) (p : Pillar) : (p.endInPlace d).delays = p.delays := rfl
@[simp] theorem endEmpty_delays (c : Ctx) (d : DockNo) (p : Pillar) : (p.endEmpty c d).delays = p.delays := by
  simp [Pillar.endEmpty]
@[simp] theorem grantFault_delays (c : Ctx) (d : DockNo) (cause : FaultCause) (gone : Bool) (p : Pillar) :
    (p.grantFault c d cause gone).delays = p.delays := by
  unfold Pillar.grantFault; dsimp only; split <;> simp
@[simp] theorem createGrant_delays (i : Fin 8) (d : DockNo) (rider : Option RiderPart) (p : Pillar) :
    (p.createGrant i d rider).delays = p.delays := by
  unfold Pillar.createGrant; dsimp only; rw [join_delays]; rfl
@[simp] theorem grantOpen_delays (c : Ctx) (i : Fin 8) (g : Grant) (p : Pillar) :
    (p.grantOpen c i g).delays = p.delays := by
  simp [Pillar.grantOpen]
@[simp] theorem grantRelock_delays (i : Fin 8) (g : Grant) (cause : RelockCause) (p : Pillar) :
    (p.grantRelock i g cause).delays = p.delays := by
  simp [Pillar.grantRelock]
@[simp] theorem reallocate_delays (c : Ctx) (i : Fin 8) (g : Grant) (detail : Detail) (p : Pillar) :
    (p.reallocate c i g detail).delays = p.delays := by
  unfold Pillar.reallocate; (repeat' split) <;> simp
@[simp] theorem releaseFailed_delays (c : Ctx) (i : Fin 8) (g : Grant) (p : Pillar) :
    (p.releaseFailed c i g).delays = p.delays := by
  unfold Pillar.releaseFailed; split <;> simp
@[simp] theorem grantJammed_delays (c : Ctx) (i : Fin 8) (g : Grant) (p : Pillar) :
    (p.grantJammed c i g).delays = p.delays := by
  unfold Pillar.grantJammed; dsimp only; split <;> simp
@[simp] theorem openJammed_delays (c : Ctx) (i : Fin 8) (g : Grant) (p : Pillar) :
    (p.openJammed c i g).delays = p.delays := by
  simp [Pillar.openJammed]
@[simp] theorem pulled_delays (c : Ctx) (i : Fin 8) (g : Grant) (p : Pillar) : (p.pulled c i g).delays = p.delays := by
  simp [Pillar.pulled]
@[simp] theorem grantRelocked_delays (c : Ctx) (i : Fin 8) (g : Grant) (held : Bool) (p : Pillar) :
    (p.grantRelocked c i g held).delays = p.delays := by
  unfold Pillar.grantRelocked; dsimp only; (repeat' split) <;> simp
@[simp] theorem grantRelockFailed_delays (c : Ctx) (i : Fin 8) (g : Grant) (cause : FaultCause) (p : Pillar) :
    (p.grantRelockFailed c i g cause).delays = p.delays := by
  simp [Pillar.grantRelockFailed]
@[simp] theorem grantRelockAttemptFailed_delays (c : Ctx) (i : Fin 8) (g : Grant) (p : Pillar) :
    (p.grantRelockAttemptFailed c i g).delays = p.delays := by
  unfold Pillar.grantRelockAttemptFailed; split <;> simp
@[simp] theorem grantRelockChange_delays (c : Ctx) (i : Fin 8) (g : Grant) (held : Bool) (p : Pillar) :
    (p.grantRelockChange c i g held).delays = p.delays := by
  unfold Pillar.grantRelockChange; split <;> simp
@[simp] theorem grantCode_delays (c : Ctx) (i : Fin 8) (g : Grant) (code : Code) (p : Pillar) :
    (p.grantCode c i g code).delays = p.delays := by
  unfold Pillar.grantCode; (repeat' split) <;> simp
@[simp] theorem grantAbsent_delays (c : Ctx) (i : Fin 8) (g : Grant) (p : Pillar) :
    (p.grantAbsent c i g).delays = p.delays := by
  unfold Pillar.grantAbsent; split <;> simp
@[simp] theorem releaseOutcome_delays (c : Ctx) (id : Nat) (d : DockNo) (o : ChanOutcome) (p : Pillar) :
    (p.releaseOutcome c id d o).delays = p.delays := by
  unfold Pillar.releaseOutcome; (repeat' split) <;> simp
@[simp] theorem grantRelockTransferEnd_delays (c : Ctx) (i : Fin 8) (g : Grant) (o : ChanOutcome) (p : Pillar) :
    (p.grantRelockTransferEnd c i g o).delays = p.delays := by
  unfold Pillar.grantRelockTransferEnd; (repeat' split) <;> simp
@[simp] theorem relockOutcome_delays (c : Ctx) (d : DockNo) (o : ChanOutcome) (p : Pillar) :
    (p.relockOutcome c d o).delays = p.delays := by
  unfold Pillar.relockOutcome; (repeat' split) <;> simp
@[simp] theorem grantSilent_delays (c : Ctx) (i : Fin 8) (g : Grant) (p : Pillar) :
    (p.grantSilent c i g).delays = p.delays := by
  unfold Pillar.grantSilent; dsimp only; split <;> split <;> simp
@[simp] theorem cancelGrant_delays (c : Ctx) (i : Fin 8) (g : Grant) (p : Pillar) :
    (p.cancelGrant c i g).delays = p.delays := by
  unfold Pillar.cancelGrant; (repeat' split) <;> simp
@[simp] theorem cancelRef_delays (c : Ctx) (ref : Byte) (p : Pillar) : (p.cancelRef c ref).delays = p.delays := by
  unfold Pillar.cancelRef; split <;> simp
@[simp] theorem abortActive_delays (c : Ctx) (i : Fin 8) (g : Grant) (p : Pillar) :
    (p.abortActive c i g).delays = p.delays := by
  unfold Pillar.abortActive; split <;> simp

/-! ## The Presence Filter, the frames and the arbiter -/

@[simp] theorem uninitFilter_delays (d : DockNo) (p : Pillar) : (p.uninitFilter d).delays = p.delays := rfl
@[simp] theorem feedFilter_delays (c : Ctx) (r : RailId) (d : DockNo) (before : Option Code) (code : Code) (raw : Nat)
    (p : Pillar) : (p.feedFilter c r d before code raw).delays = p.delays := by
  unfold Pillar.feedFilter; dsimp only; (repeat' split) <;> simp

/-- R130: a scan changes the codes of a head and leaves its delay. -/
@[simp] theorem confirm_delay (code : Code) (h : Head) : (h.confirm code).delay = h.delay := by
  unfold Head.confirm; (repeat' split) <;> rfl

@[simp] theorem ordinaryScan_delays (c : Ctx) (r : RailId) (d : DockNo) (u : Upstream) (p : Pillar) :
    (p.ordinaryScan c r d u).delays = p.delays := by
  unfold Pillar.ordinaryScan
  dsimp only
  (repeat' split) <;> simp [Head.miss]
@[simp] theorem sweepScan_delays (c : Ctx) (r : RailId) (d : DockNo) (t : Training) (u : Upstream) (p : Pillar) :
    (p.sweepScan c r d t u).delays = p.delays := by
  unfold Pillar.sweepScan; dsimp only; split <;> simp
@[simp] theorem scanEnd_delays (c : Ctx) (r : RailId) (u : Upstream) (p : Pillar) :
    (p.scanEnd c r u).delays = p.delays := by
  unfold Pillar.scanEnd; (repeat' split) <;> simp
@[simp] theorem frameEnd_delays (c : Ctx) (r : RailId) (early : Bool) (u : Upstream) (p : Pillar) :
    (p.frameEnd c r early u).delays = p.delays := by
  simp [Pillar.frameEnd]
@[simp] theorem beginFrame_delays (r : RailId) (p : Pillar) : (p.beginFrame r).delays = p.delays := modRail_delays ..
@[simp] theorem schedule_delays (r : RailId) (p : Pillar) : (p.schedule r).delays = p.delays := by
  obtain ⟨pointer, pair, scan, h⟩ := schedule_cases r p
  simp [h]
@[simp] theorem grantSending_delays (m : Msg) (p : Pillar) : (p.grantSending m).delays = p.delays := by
  unfold Pillar.grantSending; (repeat' split) <;> simp
@[simp] theorem handOff_delays (r : RailId) (p : Pillar) : (p.handOff r).delays = p.delays := by
  unfold Pillar.handOff; dsimp only; split <;> simp

/-! ## Timing training -/

@[simp] theorem placeStray_delays (d : DockNo) (p : Pillar) : (p.placeStray d).delays = p.delays := by
  unfold Pillar.placeStray; split <;> simp
@[simp] theorem checkStray_delays (d : DockNo) (p : Pillar) : (p.checkStray d).delays = p.delays := by
  unfold Pillar.checkStray; split <;> simp
@[simp] theorem withdrawStray_delays (d : DockNo) (p : Pillar) : (p.withdrawStray d).delays = p.delays := by
  unfold Pillar.withdrawStray; split <;> simp
@[simp] theorem strayOutcome_delays (d : DockNo) (p : Pillar) : (p.strayOutcome d).delays = p.delays := by
  simp [Pillar.strayOutcome]
@[simp] theorem setTraining_delays (r : RailId) (t : Option Training) (p : Pillar) :
    (p.setTraining r t).delays = p.delays := modRail_delays ..
@[simp] theorem endHead_delays (r : RailId) (d : DockNo) (result : TrainResult) (p : Pillar) :
    (p.endHead r d result).delays = p.delays := by
  simp [Pillar.endHead]
@[simp] theorem trainNext_delays (r : RailId) (l : List DockNo) (p : Pillar) :
    (Pillar.trainNext r l p).delays = p.delays := by
  induction l generalizing p with
  | nil => simp [Pillar.trainNext]
  | cons d rest ih => unfold Pillar.trainNext; dsimp only; split <;> simp [ih]
@[simp] theorem trainRail_delays (r : RailId) (p : Pillar) : (p.trainRail r).delays = p.delays := trainNext_delays ..
@[simp] theorem finishHead_delays (r : RailId) (d : DockNo) (result : TrainResult) (p : Pillar) :
    (p.finishHead r d result).delays = p.delays := by
  simp [Pillar.finishHead]
@[simp] theorem trainOffStep_delays (r : RailId) (t : Training) (result : TrainResult) (p : Pillar) :
    (p.trainOffStep r t result).delays = p.delays := by
  simp [Pillar.trainOffStep]
@[simp] theorem trainAttemptFailed_delays (r : RailId) (t : Training) (p : Pillar) :
    (p.trainAttemptFailed r t).delays = p.delays := by
  unfold Pillar.trainAttemptFailed; (repeat' split) <;> simp
@[simp] theorem trainConfirmed_delays (r : RailId) (t : Training) (p : Pillar) :
    (p.trainConfirmed r t).delays = p.delays := by
  unfold Pillar.trainConfirmed; split <;> simp
@[simp] theorem trainOutcome_delays (c : Ctx) (r : RailId) (m : Msg) (o : ChanOutcome) (p : Pillar) :
    (p.trainOutcome c r m o).delays = p.delays := by
  unfold Pillar.trainOutcome; (repeat' split) <;> simp
@[simp] theorem trainCode_delays (d : DockNo) (p : Pillar) : (p.trainCode d).delays = p.delays := by
  unfold Pillar.trainCode; (repeat' split) <;> simp
@[simp] theorem trainSilent_delays (d : DockNo) (p : Pillar) : (p.trainSilent d).delays = p.delays := by
  unfold Pillar.trainSilent; split <;> simp
@[simp] theorem trainExpire_delays (r : RailId) (p : Pillar) : (p.trainExpire r).delays = p.delays := by
  unfold Pillar.trainExpire; split <;> simp

/-! ## Events -/

@[simp] theorem rise_delays (d : DockNo) (p : Pillar) : (p.rise d).delays = p.delays := rfl
@[simp] theorem lowReset_delays (d : DockNo) (p : Pillar) : (p.lowReset d).delays = p.delays := rfl
@[simp] theorem takePresence_delays (d : DockNo) (p : Pillar) : (p.takePresence d).delays = p.delays := modRail_delays ..
@[simp] theorem presentEvent_delays (c : Ctx) (d : DockNo) (p : Pillar) : (p.presentEvent c d).delays = p.delays := by
  unfold Pillar.presentEvent; dsimp only; split <;> simp
@[simp] theorem absentEvent_delays (c : Ctx) (d : DockNo) (p : Pillar) : (p.absentEvent c d).delays = p.delays := by
  unfold Pillar.absentEvent; dsimp only; split <;> simp
@[simp] theorem codeEvent_delays (c : Ctx) (d : DockNo) (p : Pillar) : (p.codeEvent c d).delays = p.delays := by
  unfold Pillar.codeEvent; dsimp only; (repeat' split) <;> simp
@[simp] theorem silentRail_delays (d : DockNo) (p : Pillar) : (p.silentRail d).delays = p.delays := by
  simp [Pillar.silentRail]
@[simp] theorem silentDock_delays (c : Ctx) (d : DockNo) (p : Pillar) : (p.silentDock c d).delays = p.delays := by
  unfold Pillar.silentDock; (repeat' split) <;> simp
@[simp] theorem silentReport_delays (c : Ctx) (d : DockNo) (p : Pillar) : (p.silentReport c d).delays = p.delays := by
  unfold Pillar.silentReport; dsimp only; split <;> simp
@[simp] theorem deliver_delays (c : Ctx) (m : Msg) (o : ChanOutcome) (replies : List Byte) (p : Pillar) :
    (p.deliver c m o replies).delays = p.delays := by
  unfold Pillar.deliver; (repeat' split) <;> simp
@[simp] theorem channelOutcome_delays (c : Ctx) (r : RailId) (p : Pillar) :
    (p.channelOutcome c r).delays = p.delays := by
  unfold Pillar.channelOutcome; dsimp only; (repeat' split) <;> simp
@[simp] theorem confirmExpiry_delays (c : Ctx) (id : Nat) (p : Pillar) : (p.confirmExpiry c id).delays = p.delays := by
  unfold Pillar.confirmExpiry; split <;> simp
@[simp] theorem pullExpiry_delays (id : Nat) (p : Pillar) : (p.pullExpiry id).delays = p.delays := by
  unfold Pillar.pullExpiry; split <;> simp
@[simp] theorem relockExpiry_delays (c : Ctx) (id : Nat) (p : Pillar) : (p.relockExpiry c id).delays = p.delays := by
  unfold Pillar.relockExpiry; split <;> simp

end Sys2Proof.Machine
end

