-- ==== Sys2Proof/Proofs/SettingsRanges.lean ====
section
/-!
PROOFS. What a step can do to the settings, the sample delays, the stored image and the Station Clock, said once: every
step is a chain of the changes `Change` lists (`step_changes`). That the settings stay in their ranges (R22, R116, R151,
R181) and that the clock stays within its bounds (R23, R28, R30, R35) then follow by one case for each kind of change.
-/

namespace Sys2Proof.Machine

/-! ## The events of the pillar that are due -/

/-- R155: the run of good delays lies in 0 to 31. -/
theorem goodRun_le {good : BitVec 32} {lo hi : Nat} (h : goodRun good = some (lo, hi)) : lo ≤ 31 ∧ hi ≤ 31 := by
  unfold goodRun at h
  obtain ⟨n, hn, heq⟩ := Option.map_eq_some_iff.mp h
  have hlt : n < 32 := List.mem_range.mp (List.mem_of_find?_eq_some hn)
  have hrun := (List.takeWhile_sublist (fun n => good.getLsbD n) (l := (List.range 32).drop n)).length_le
  simp only [List.length_drop, List.length_range] at hrun
  cases heq
  omega

/-- What a pillar operation may do to the delays: each stays, or takes a value in 0 to 31. -/
def Pillar.retimed (p q : Pillar) : Prop := ∀ d, q.delays d = p.delays d ∨ q.delays d ≤ 31

theorem retimed_of_eq {p q : Pillar} (h : q.delays = p.delays) : p.retimed q := fun d => .inl (congrFun h d)

theorem retimed_trans {p q r : Pillar} (h : p.retimed q) (k : q.retimed r) : p.retimed r := by
  intro d
  rcases k d with e | hle
  · rw [e]; exact h d
  · exact .inr hle

/-- R155: the end of a sweep writes the middle of the run of good delays. -/
theorem endSweep_retimed (r : RailId) (p : Pillar) : p.retimed (p.endSweep r) := by
  unfold Pillar.endSweep
  split
  · exact retimed_of_eq rfl
  · next t _ =>
    split
    · next lo hi hrun =>
      intro d
      have hle := goodRun_le hrun
      rw [trainOffStep_delays]
      simp only [Pillar.delays, Pillar.modHead, setHead_head]
      split
      · right; dsimp only; omega
      · exact .inl rfl
    · exact retimed_of_eq (trainOffStep_delays ..)

theorem trySweepEnd_retimed (c : Ctx) (r : RailId) (p : Pillar) : p.retimed (p.trySweepEnd c r) := by
  unfold Pillar.trySweepEnd Pillar.eventIf
  split
  · exact fun d => by rw [event_delays]; exact endSweep_retimed r p d
  · exact retimed_of_eq rfl

@[simp] theorem settleChannel_delays (c : Ctx) (r : RailId) (p : Pillar) :
    (p.settleChannel c r).delays = p.delays := by
  simp [Pillar.settleChannel, Pillar.tryChanTimeout, Pillar.tryClosing, Pillar.tryAbort, Pillar.tryOutcome,
    Pillar.tryRestore, Pillar.chanTimeout, Pillar.closingTimeout, Pillar.chanAbort, Pillar.restore]

@[simp] theorem settleFilters_delays (c : Ctx) (p : Pillar) : (p.settleFilters c).delays = p.delays :=
  foldl_delays (fun _ _ => (eventIf_delays (lowReset_delays ..)).trans (eventIf_delays (rise_delays ..))) _ _

@[simp] theorem settleDocks_delays (c : Ctx) (p : Pillar) : (p.settleDocks c).delays = p.delays :=
  foldl_delays (fun p d => by simp [Pillar.tryPoor, Pillar.tryRelock]) _ _

@[simp] theorem settleGrants_delays (c : Ctx) (p : Pillar) : (p.settleGrants c).delays = p.delays :=
  foldl_delays (fun p i => by
    unfold Pillar.settleGrant
    split <;> simp [Pillar.tryConfirmExpiry, Pillar.tryPullExpiry, Pillar.tryRelockExpiry]) _ _

@[simp] theorem settleFrame_delays (c : Ctx) (r : RailId) (p : Pillar) : (p.settleFrame c r).delays = p.delays := by
  unfold Pillar.settleFrame Pillar.trySchedule Pillar.tryHandOff
  split <;> simp

/-- Of what a scan brings, the end of a sweep alone writes a delay. -/
theorem settleScan_retimed (c : Ctx) (r : RailId) (p : Pillar) : p.retimed (p.settleScan c r) := by
  unfold Pillar.settleScan
  dsimp only
  refine fun d => ?_
  rw [show ∀ q : Pillar, (q.tryTrainExpiry c r).delays = q.delays from fun q => by simp [Pillar.tryTrainExpiry]]
  refine retimed_trans (retimed_of_eq ?_) (trySweepEnd_retimed c r _) d
  (repeat' split) <;>
    simp [Pillar.trySilent, Pillar.tryFirstCode, Pillar.tryChange, Pillar.tryPresent, Pillar.tryAbsent]

theorem settle_retimed (c : Ctx) (p : Pillar) : p.retimed (p.settle c) := by
  intro d
  simp only [Pillar.settle, settleFrame_delays, settleGrants_delays, settleDocks_delays]
  refine retimed_trans (retimed_trans (retimed_of_eq ?_) (settleScan_retimed c .a _)) (settleScan_retimed c .b _) d
  simp

/-! ## The changes -/

/-- What a command may do to the Station Clock; `setUnc` is SET_UNCERTAINTY (R22 to R36). -/
inductive Clock.Move (setUnc : Nat) (k : Clock) : Clock → Prop
  | tick (limit : Nat) : Move setUnc k (k.tick limit)
  | growthStep : Move setUnc k k.growthStep
  | unlock : Move setUnc k k.unlock
  | set (seconds : Nat) (back : Bool) (h : seconds ≤ Config.secondMax) :
    Move setUnc k (k.setImmediate setUnc seconds back)
  | pend (a : AlignedSet) (h : a.seconds ≤ Config.secondMax) : Move setUnc k { k with aligned := some a }
  | expire : Move setUnc k (k.alignedExpire setUnc)
  | pulse (cycles : Nat) : Move setUnc k (k.pulseArrives cycles)

/-- What the ranges of the settings and the bounds of the clock speak of. -/
structure Values where
  work : Settings
  image : Image
  /-- The values a store in progress captured. -/
  captured : Option Image
  delays : DockNo → Nat
  clock : Clock

def State.values (s : State) : Values where
  work := s.store.work
  image := s.store.image
  captured := s.store.store.map StoreRun.captured
  delays := s.pillar.delays
  clock := s.clock

/-- One change of the values, by the rule that makes it. -/
inductive Change (v : Values) : Values → Prop
  /-- R155, R181: sample delays are written. -/
  | delays (ds : DockNo → Nat) (h : ∀ d, ds d = v.delays d ∨ ds d ≤ 31) : Change v { v with delays := ds }
  /-- R22 to R36: the clock moves. -/
  | clock (k : Clock) (h : v.clock.Move v.work.setUncertainty k) : Change v { v with clock := k }
  /-- R181: a setting is written, within its range and under the constraint of R116. -/
  | write (name : SettingName) (x : Nat)
      (h : name.constrained = true → (v.work.write name (clamp name.range x)).thresholdsOk = true) :
      Change v { v with work := v.work.write name (clamp name.range x) }
  /-- R183: the factory values are put back. -/
  | restore : Change v { v with
      work := .factory, delays := fun _ => factoryDelay, clock := { v.clock with trim := Config.trimNominal } }
  /-- R182: a store captures the working values, and the image is no longer good. -/
  | capture (i : Image) (w : Word) (hs : i.settings = v.work) (hd : ∀ d : DockNo, i.delays[d] = v.delays d)
      (ht : i.trim = v.clock.trim) :
      Change v { v with captured := some i, image := { v.image with check := w } }
  /-- R182: a store completes. -/
  | complete (i : Image) (h : v.captured = some i) : Change v { v with captured := none, image := i }
  /-- R184: a reset with a good image. -/
  | load : Change v
      { v with
        work := v.image.settings, captured := none, delays := fun d => v.image.delays[d]
        clock := .boot v.image.trim }
  /-- R184: a reset with an image that is not good. -/
  | factory : Change v
      { v with
        work := .factory, captured := none, delays := fun _ => factoryDelay, clock := .boot Config.trimNominal }

/-- A chain of changes. -/
abbrev Changes : Values → Values → Prop := Relation.ReflTransGen Change

theorem Change.one {v w : Values} (h : Change v w) : Changes v w := .single h

/-! ## The operations of the state, as changes -/

theorem values_with_tcu (s : State) (tcu : Tcu) : ({ s with tcu := tcu } : State).values = s.values := rfl
theorem values_with_rider (s : State) (rider : RiderRx) : ({ s with rider := rider } : State).values = s.values := rfl

@[simp] theorem event_values {s : State} {f : Ctx → Pillar → Pillar} (h : (f s.ctx s.pillar).delays = s.pillar.delays) :
    (s.event f).values = s.values := by
  simp [State.values, h]

theorem onPillar_changes {s : State} {f : Ctx → Pillar → Pillar} (h : s.pillar.retimed (f s.ctx s.pillar)) :
    Changes s.values (s.onPillar f).values := (Change.delays (v := s.values) _ h).one

/-- An operation of the pillar that keeps the delays keeps every value. -/
theorem onPillar_values {s : State} {f : Ctx → Pillar → Pillar} (h : (f s.ctx s.pillar).delays = s.pillar.delays) :
    (s.onPillar f).values = s.values := by
  simp [State.values, h]

@[simp] theorem prune_delays (k : Clock) (p : Pillar) : (p.prune k).delays = p.delays := rfl
@[simp] theorem clockChanged_delays (c : Ctx) (old new : Clock) (p : Pillar) :
    (p.clockChanged c old new).delays = p.delays := by
  unfold Pillar.clockChanged; dsimp only; (repeat' split) <;> simp

theorem setClock_values (s : State) (k : Clock) : (s.setClock k).values = { s.values with clock := k } := by
  unfold State.setClock
  dsimp only
  split
  · rw [event_values (clockChanged_delays ..)]; rfl
  · rfl

theorem setClock_changes {s : State} {k : Clock} (h : s.clock.Move s.store.work.setUncertainty k) :
    Changes s.values (s.setClock k).values := by
  rw [setClock_values]
  exact (Change.clock k h).one

theorem tryAbsence_changes (s : State) : Changes s.values s.tryAbsence.values := by
  unfold State.tryAbsence
  split
  · exact setClock_changes .unlock
  · exact .refl

theorem tryGrowth_changes (s : State) : Changes s.values s.tryGrowth.values := by
  unfold State.tryGrowth
  split
  · exact (Change.clock _ .growthStep).one
  · exact .refl

theorem tryAligned_changes (s : State) : Changes s.values s.tryAligned.values := by
  unfold State.tryAligned
  split
  · exact setClock_changes .expire
  · exact .refl

@[simp] theorem trySilence_values (s : State) : s.trySilence.values = s.values := by
  unfold State.trySilence; split <;> rfl
@[simp] theorem tryGap_values (s : State) : s.tryGap.values = s.values := by
  unfold State.tryGap; split <;> rfl

theorem settleClock_changes (s : State) : Changes s.values s.settleClock.values := by
  unfold State.settleClock
  rw [tryGap_values, trySilence_values]
  exact ((tryAbsence_changes s).trans (tryGrowth_changes _)).trans (tryAligned_changes _)

/-! ### Station requests -/

/-- A request that is answered without a change of the values. -/
theorem onDock_values {dock : Byte} {f : DockNo → State → State × Response} {s : State}
    (h : ∀ d, (f d s).1.values = s.values) : (s.onDock dock f).1.values = s.values := by
  unfold State.onDock
  split
  · exact h _
  · rfl

@[simp] theorem enterOwed_delays (c : Ctx) (p : Pillar) (d : DockNo) : (p.enterOwed c d).delays = p.delays := by
  unfold Pillar.enterOwed; (repeat' split) <;> simp
theorem delays_with_flags (p : Pillar) (overflow attention : Bool) :
    ({ p with overflow := overflow, attention := attention } : Pillar).delays = p.delays := rfl
@[simp] theorem readRecords_delays (c : Ctx) (n : Nat) (p : Pillar) : (p.readRecords c n).delays = p.delays := by
  unfold Pillar.readRecords
  dsimp only
  split
  · rfl
  · rw [delays_with_flags, foldl_delays (enterOwed_delays c)]
    rfl
@[simp] theorem clearFault_delays (c : Ctx) (d : DockNo) (p : Pillar) : (p.clearFault c d).delays = p.delays := by
  have relock : (if (p.head d).confirmed = some .open then p else p.endRelock d).delays = p.delays := by
    split <;> simp
  unfold Pillar.clearFault
  dsimp only
  split
  · rw [recover_delays, uninitFilter_delays, enterState_delays, relock]
  · rw [uninitFilter_delays, enterState_delays, relock]
@[simp] theorem unfitDock_delays (d : DockNo) (p : Pillar) : (p.unfitDock d).delays = p.delays := by
  unfold Pillar.unfitDock
  dsimp only
  rw [modRail_delays, uninitFilter_delays, modHead_delays (f := Head.refit) fun _ => rfl]
  exact drop_delays d (fun _ => true) (p.setDock d (.fresh .unfitted))
@[simp] theorem fitDock_delays (d : DockNo) (p : Pillar) : (p.fitDock d).delays = p.delays := by
  exact modHead_delays (p := p.setDock d (.fresh .silent)) (fun _ => rfl)
@[simp] theorem refitDock_delays (new : BitVec 48) (p : Pillar) (d : DockNo) :
    (p.refitDock new d).delays = p.delays := by
  unfold Pillar.refitDock; (repeat' split) <;> simp
@[simp] theorem applyGeometry_delays (new : BitVec 48) (p : Pillar) : (p.applyGeometry new).delays = p.delays :=
  foldl_delays (refitDock_delays new) _ _

/-- R32, R33: a time set moves the clock; the seconds of a request are a 32-bit word. -/
theorem applySetTime_changes (seconds : Word) (mode force : Byte) (s : State) :
    Changes s.values (s.applySetTime seconds mode force).1.values := by
  have hsec : seconds.toNat ≤ Config.secondMax := Nat.le_of_lt_succ seconds.isLt
  unfold State.applySetTime
  dsimp only
  (repeat' split)
  · exact .refl
  · exact .refl
  · exact setClock_changes (.set _ _ hsec)
  · exact (Change.clock _ (.pend _ hsec)).one

/-- R181: SETTING_WRITE, for a head's delay and for every other setting. -/
theorem applySettingWrite_changes (setting dock : Byte) (value : BitVec 48) (s : State) :
    Changes s.values (s.applySettingWrite setting dock value).1.values := by
  unfold State.applySettingWrite
  split
  · exact .refl
  split
  · exact .refl
  split
  · exact .refl
  dsimp only
  split
  · exact .refl
  · next name _ _ _ h =>
    have hthr : name.constrained = true →
        (s.store.work.write name (clamp name.range value.toNat)).thresholdsOk = true := fun hc => by
      simpa [hc] using h
    refine .trans (Change.write (v := s.values) name value.toNat hthr).one (Change.delays _ fun d => ?_).one
    unfold State.writeSetting
    dsimp only
    split
    · simp only [Pillar.delays, Pillar.modHead, setHead_head]
      split
      · exact .inr (by simp [clamp, SettingName.range])
      · exact .inl rfl
    · split
      · exact .inl rfl
      · exact .inl rfl

theorem applyStore_idle {s : State} (h : s.store.busy = false) :
    s.applyStore =
      ({ s with
          store := { s.store with
            busy := true, store := some { captured := s.capture, ticks := 0 }
            image := { s.store.image with check := ~~~ s.store.image.computed } } }, .ok) :=
  if_neg (Bool.eq_false_iff.mp h)

/-- R182: what a store captures of the delays. -/
theorem capture_delays (s : State) (d : DockNo) : s.capture.delays[d] = (s.pillar.head d).delay :=
  mapTable_getElem ..

theorem applyStore_changes (s : State) : Changes s.values s.applyStore.1.values := by
  cases h : s.store.busy with
  | true => rw [State.applyStore, if_pos h]
  | false =>
    rw [applyStore_idle h]
    exact (Change.capture (v := s.values) s.capture _ rfl (capture_delays s) rfl).one

/-- R183: the heads after the factory delays are put back. -/
def Pillar.factoryHeads (p : Pillar) : Pillar :=
  { p with heads := mapTable (fun (h : Head) => { h with delay := factoryDelay }) p.heads }

theorem factoryHeads_head (p : Pillar) (d : DockNo) :
    p.factoryHeads.head d = { p.head d with delay := factoryDelay } := mapTable_getElem ..

theorem applyRestore_idle {s : State} (h : s.store.busy = false) :
    s.applyRestore =
      ({ s with
          store := { s.store with work := .factory }
          tcu := { s.tcu with keyA := none, keyB := none }
          clock := { s.clock with trim := Config.trimNominal }
          pillar := s.pillar.factoryHeads.adjustFilters .factory }, .ok) :=
  if_neg (Bool.eq_false_iff.mp h)

theorem applyRestore_changes (s : State) : Changes s.values s.applyRestore.1.values := by
  cases h : s.store.busy with
  | true => rw [State.applyRestore, if_pos h]
  | false =>
    have delays : s.pillar.factoryHeads.delays = fun _ => factoryDelay :=
      funext fun d => congrArg Head.delay (factoryHeads_head s.pillar d)
    have change := (Change.restore (v := s.values)).one
    rw [← delays] at change
    rw [applyRestore_idle h]
    exact change

theorem applyReadRecords_values (count : Byte) (s : State) : (s.applyReadRecords count).1.values = s.values := by
  unfold State.applyReadRecords
  split
  · exact congrArg (fun ds => { s.values with delays := ds }) (readRecords_delays s.ctx count.toNat s.pillar)
  · rfl

theorem applyKeyLoad_values (slot epoch : Byte) (key : BitVec 128) (s : State) :
    (s.applyKeyLoad slot epoch key).1.values = s.values := by
  unfold State.applyKeyLoad
  (repeat' split) <;> rfl

theorem applyKeyDrop_values (slot : Byte) (s : State) : (s.applyKeyDrop slot).1.values = s.values := by
  unfold State.applyKeyDrop
  (repeat' split) <;> rfl

theorem applyDenyAdd_values (count : Byte) (ids : List Word) (s : State) :
    (s.applyDenyAdd count ids).1.values = s.values := by
  unfold State.applyDenyAdd
  split <;> rfl

theorem applyDenyRemove_values (account : Word) (s : State) : (s.applyDenyRemove account).1.values = s.values := by
  unfold State.applyDenyRemove
  split <;> rfl

theorem applyHoldReserve_values (dock id : Byte) (expiry : Word) (s : State) :
    (s.applyHoldReserve dock id expiry).1.values = s.values := by
  refine onDock_values fun d => ?_
  (repeat' split)
  · rfl
  · rfl
  · rfl
  · rw [event_values]
    exact modDock_delays ..

theorem applyHoldService_values (dock : Byte) (s : State) : (s.applyHoldService dock).1.values = s.values := by
  refine onDock_values fun d => ?_
  split
  · rfl
  · rw [event_values]
    exact modDock_delays ..

theorem applyHoldSet_values (kind dock id : Byte) (expiry : Word) (s : State) :
    (s.applyHoldSet kind dock id expiry).1.values = s.values := by
  unfold State.applyHoldSet
  (repeat' split)
  · exact applyHoldReserve_values ..
  · exact applyHoldService_values ..
  · rfl

theorem applyHoldClear_values (dock : Byte) (s : State) : (s.applyHoldClear dock).1.values = s.values := by
  refine onDock_values fun d => ?_
  split
  · rfl
  · rw [event_values]
    exact modDock_delays ..

theorem applyBikeCondition_values (dock condition : Byte) (s : State) :
    (s.applyBikeCondition dock condition).1.values = s.values := by
  refine onDock_values fun d => ?_
  split <;> rfl

theorem setLamp_values (source : LampSource) (d : DockNo) (s : State) : (s.setLamp source d).1.values = s.values := by
  unfold State.setLamp
  split
  · rfl
  · rw [event_values]
    exact modDock_delays ..

theorem applyLampDirect_values (dock pattern : Byte) (s : State) :
    (s.applyLampDirect dock pattern).1.values = s.values := by
  refine onDock_values fun d => ?_
  split
  · rfl
  · exact setLamp_values ..

theorem applyClearFault_values (dock : Byte) (s : State) : (s.applyClearFault dock).1.values = s.values := by
  refine onDock_values fun d => ?_
  split
  · rfl
  · rw [event_values]
    exact clearFault_delays ..

theorem applyStaffRelease_values (dock : Byte) (s : State) : (s.applyStaffRelease dock).1.values = s.values := by
  refine onDock_values fun d => ?_
  (repeat' split)
  · rfl
  · rfl
  · rw [event_values]
    exact createGrant_delays ..
  · rfl

theorem applyAbortGrant_values (grant : Byte) (s : State) : (s.applyAbortGrant grant).1.values = s.values := by
  unfold State.applyAbortGrant
  (repeat' split)
  · rfl
  · rfl
  · rfl
  · rw [event_values]
    exact abortActive_delays ..

theorem applyRailTrain_values (rail : Byte) (s : State) : (s.applyRailTrain rail).1.values = s.values := by
  unfold State.applyRailTrain
  (repeat' split)
  · rfl
  · rfl
  · exact congrArg (fun ds => { s.values with delays := ds }) (trainRail_delays ..)

theorem applySettingRead_values (setting dock : Byte) (s : State) :
    (s.applySettingRead setting dock).1.values = s.values := by
  unfold State.applySettingRead
  split <;> rfl

theorem applyServiceEnter_values (s : State) : s.applyServiceEnter.1.values = s.values := by
  unfold State.applyServiceEnter
  (repeat' split) <;> rfl

theorem applyServiceLeave_values (s : State) : s.applyServiceLeave.1.values = s.values := by
  unfold State.applyServiceLeave
  (repeat' split)
  · rfl
  · rfl
  · rfl
  · exact congrArg (fun ds => { s.values with delays := ds }) (applyGeometry_delays ..)

/-- The requests but for SET_TIME, SETTING_WRITE, STORE_SETTINGS and RESTORE_FACTORY change none of the values. -/
theorem applyRequest_changes (r : Request) (s : State) : Changes s.values (applyRequest r s).1.values := by
  have same : ∀ {t : State}, t.values = s.values → Changes s.values t.values := fun h => h ▸ .refl
  cases r with
  | status => exact .refl
  | readDock dock => exact same (onDock_values fun _ => rfl)
  | readRecords count => exact same (applyReadRecords_values count s)
  | setTime seconds mode force => exact applySetTime_changes seconds mode force s
  | keyLoad slot epoch key => exact same (applyKeyLoad_values slot epoch key s)
  | keyDrop slot => exact same (applyKeyDrop_values slot s)
  | denyAdd count ids => exact same (applyDenyAdd_values count ids s)
  | denyRemove account => exact same (applyDenyRemove_values account s)
  | denyClear => exact .refl
  | holdSet kind dock id expiry => exact same (applyHoldSet_values kind dock id expiry s)
  | holdClear dock => exact same (applyHoldClear_values dock s)
  | bikeCondition dock condition => exact same (applyBikeCondition_values dock condition s)
  | lampDirect dock pattern => exact same (applyLampDirect_values dock pattern s)
  | lampAuto dock => exact same (onDock_values fun d => setLamp_values .auto d s)
  | clearFault dock => exact same (applyClearFault_values dock s)
  | staffRelease dock => exact same (applyStaffRelease_values dock s)
  | abortGrant grant => exact same (applyAbortGrant_values grant s)
  | suspend => exact .refl
  | resume => exact .refl
  | railTrain rail => exact same (applyRailTrain_values rail s)
  | settingWrite setting dock value => exact applySettingWrite_changes setting dock value s
  | settingRead setting dock => exact same (applySettingRead_values setting dock s)
  | storeSettings => exact applyStore_changes s
  | restoreFactory => exact applyRestore_changes s
  | serviceEnter => exact same (applyServiceEnter_values s)
  | serviceLeave => exact same (applyServiceLeave_values s)

theorem takeRequest_changes (r : Request) (s : State) : Changes s.values (s.takeRequest r).values := by
  unfold State.takeRequest
  dsimp only
  (repeat' split)
  · exact .refl
  · exact .refl
  · exact applyRequest_changes r { s with link := s.link.take r }

theorem readSelection_values (n : Nat) (s : State) : (s.readSelection n).values = s.values := by
  unfold State.readSelection
  dsimp only
  (repeat' split) <;> rfl

theorem writeSelection_changes (bytes : List Byte) (s : State) : Changes s.values (s.writeSelection bytes).values := by
  unfold State.writeSelection
  (repeat' split)
  · exact .refl
  · exact .refl
  · exact .refl
  · exact .refl
  · exact takeRequest_changes _ s
  · exact readSelection_values _ s ▸ .refl
  · exact .refl

/-! ### The Token Check Unit and the rider link -/

theorem tryHeldCancel_values (s : State) : s.tryHeldCancel.values = s.values := by
  unfold State.tryHeldCancel State.applyHeldCancel
  split
  · split
    · rfl
    · rw [event_values (cancelRef_delays ..)]
      rfl
  · rfl

theorem tryHeldRequest_changes (s : State) : Changes s.values s.tryHeldRequest.values := by
  unfold State.tryHeldRequest State.applyHeldRequest
  split
  · split
    · exact .refl
    · exact applyRequest_changes _ { s with tcu := { s.tcu with held := none } }
  · exact .refl

theorem settleHeld_changes (s : State) : Changes s.values s.settleHeld.values :=
  tryHeldCancel_values s ▸ tryHeldRequest_changes s.tryHeldCancel

theorem settle_changes (s : State) : Changes s.values s.settle.values :=
  ((settleClock_changes s).trans (settleHeld_changes _)).trans (onPillar_changes (settle_retimed _ _))

@[simp] theorem grantTo_delays (i : Fin 8) (d : DockNo) (pres : Presentation) (p : Pillar) :
    (p.grantTo i d pres).delays = p.delays := by
  unfold Pillar.grantTo
  dsimp only
  rw [send_delays]
  exact createGrant_delays i d _ p
@[simp] theorem accept_delays (k : Clock) (pres : Presentation) (p : Pillar) :
    (p.accept k pres).delays = p.delays := by
  unfold Pillar.accept; dsimp only; (repeat' split) <;> simp
@[simp] theorem decide_delays (c : Ctx) (k : Clock) (tcu : Tcu) (pres : Presentation) (p : Pillar) :
    (p.decide c k tcu pres).delays = p.delays := by
  unfold Pillar.decide; dsimp only; (repeat' split) <;> simp
@[simp] theorem verified_delays (c : Ctx) (k : Clock) (tcu : Tcu) (check : Check) (p : Pillar) :
    (p.verified c k tcu check).delays = p.delays := by
  unfold Pillar.verified; split <;> simp

theorem endCheck_values (s : State) : s.endCheck.values = s.values := by
  unfold State.endCheck
  split
  · rfl
  · rw [values_with_tcu, event_values]
    exact verified_delays ..

theorem take_values (s : State) : s.take.values = s.values := by
  unfold State.take; split <;> rfl

theorem tryTake_values (s : State) : (if s.canTake then s.take else s).values = s.values := by
  split
  · exact take_values s
  · rfl

theorem query_delays (p : Pillar) : p.query.delays = p.delays := by
  unfold Pillar.query
  split <;> rfl

theorem acceptFrame_values (r : RiderRequest) (s : State) : (s.acceptFrame r).values = s.values := by
  cases r with
  | present ref token =>
    simp only [State.acceptFrame, State.acceptPresent]
    split
    · rfl
    · rw [event_values]
      exact send_delays ..
  | cancel ref =>
    simp only [State.acceptFrame, State.acceptCancel]
    (repeat' split)
    · rw [event_values (send_delays ..)]
      rfl
    · rfl
    · rw [event_values]
      exact cancelRef_delays ..
  | query =>
    simp only [State.acceptFrame, State.acceptQuery]
    rw [event_values]
    exact query_delays ..

theorem receive_values (b : Byte) (stopBit : Bool) (s : State) : (s.receive b stopBit).values = s.values := by
  unfold State.receive
  dsimp only
  split
  · exact acceptFrame_values ..
  · rfl

theorem transmitComplete_values (s : State) : s.transmitComplete.values = s.values := by
  unfold State.transmitComplete
  split
  · exact event_values (s := s) (f := fun _ p => { p with tx := none }) rfl
  · rfl

/-! ### The ms tick -/

theorem completeStore_running {s : State} {run : StoreRun} (h : s.store.store = some run) :
    s.completeStore = { s with
      store := { s.store with busy := false, store := none, fromFactory := false, image := run.captured } } := by
  unfold State.completeStore
  rw [h]

theorem completeStore_changes (s : State) : Changes s.values s.completeStore.values := by
  cases h : s.store.store with
  | none => rw [State.completeStore, h]
  | some run =>
    rw [completeStore_running h]
    exact (Change.complete (v := s.values) run.captured (congrArg (Option.map StoreRun.captured) h)).one

theorem meetBounds_changes (s : State) : Changes s.values s.meetBounds.values := by
  have check : ∀ b : Bool, Changes s.values (if b then s.endCheck.settleHeld else s).values := fun b => by
    split
    · exact endCheck_values s ▸ settleHeld_changes s.endCheck
    · exact .refl
  have store : ∀ (b : Bool) (t : State), Changes t.values (if b then t.completeStore else t).values := fun b t => by
    split
    · exact completeStore_changes t
    · exact .refl
  unfold State.meetBounds
  dsimp only
  rw [tryTake_values]
  exact (check _).trans (store _ _)

theorem tickTimers_delays (p : Pillar) : p.tickTimers.delays = p.delays := rfl

/-- R23: the counts and timers of the blocks other than the clock hold none of the values. -/
theorem values_tick (s : State) (link : LinkPort) (tcu : Tcu) (rider : RiderRx) :
    ({ s with store := s.store.tick, link := link, tcu := tcu, rider := rider, pillar := s.pillar.tickTimers } :
      State).values = s.values := by
  have captured : s.store.tick.store.map StoreRun.captured = s.store.store.map StoreRun.captured := by
    cases h : s.store.store <;> simp [SettingsStore.tick, h]
  simp only [State.values, captured, tickTimers_delays]
  rfl

theorem tickTimers_changes (s : State) : Changes s.values s.tickTimers.values := by
  unfold State.tickTimers
  dsimp only
  rw [setClock_values, values_tick]
  exact (Change.clock _ (.tick _)).one

theorem msTick_changes (a b : Upstream) (s : State) : Changes s.values (s.msTick a b).values := by
  unfold State.msTick
  dsimp only
  rw [onPillar_values (by simp)]
  exact (meetBounds_changes s).trans (tickTimers_changes _)

/-! ## Every step is a chain of changes -/

theorem boot_delays (cause : ResetCause) (fitted : BitVec 48) (ds : Vector Nat 48) (d : DockNo) :
    (Pillar.boot cause fitted ds).delays d = ds[d] := congrArg Head.delay (tabulate_getElem ..)

theorem boot_changes (cause : ResetCause) (pending : List Instr) (s : State) :
    Changes s.values (State.boot cause s.store.image s.store.image.good pending).values := by
  cases s.store.image.good with
  | true =>
    have h := (Change.load (v := s.values)).one
    rw [show (fun d : DockNo => s.values.image.delays[d]) =
      (Pillar.boot cause s.store.image.settings.fitted s.store.image.delays).delays from
      funext fun d => (boot_delays ..).symm] at h
    exact h
  | false =>
    have h := (Change.factory (v := s.values)).one
    rw [show (fun _ => factoryDelay) =
      (Pillar.boot cause Settings.factory.fitted (Vector.replicate 48 factoryDelay)).delays from
      funext fun d => by rw [boot_delays]; exact (Vector.getElem_replicate ..).symm] at h
    exact h

/-- A command from outside acts after the events still due. -/
theorem external_changes {f : State → State} (h : ∀ s : State, Changes s.values (f s).values) (s : State) :
    ∃ t, external f s = .next t ∧ Changes s.values t.values :=
  ⟨_, rfl, (settle_changes s).trans (h _)⟩

/-- An event row of the pillar that is not the end of a sweep writes no delay. -/
theorem row_changes {f : Ctx → Pillar → Pillar} (h : ∀ c p, (f c p).delays = p.delays) (s : State) :
    ∃ t, (Host.Outcome.next (s.onPillar f) : Host.Outcome State Fault Refusal) = .next t ∧
      Changes s.values t.values :=
  ⟨_, rfl, onPillar_values (h _ _) ▸ .refl⟩

theorem changes_of_eq {f : State → State} (h : ∀ s : State, (f s).values = s.values) (s : State) :
    Changes s.values (f s).values := h s ▸ .refl

theorem exec_changes (c : Instr) (s : State) : ∃ t, exec c s = .next t ∧ Changes s.values t.values := by
  have request : ∀ r, ∃ t, external (State.takeRequest r) s = .next t ∧ Changes s.values t.values :=
    fun r => external_changes (takeRequest_changes r) s
  have frame : ∀ r, ∃ t,
      external (fun s => ({ s with rider := s.rider.hunt } : State).acceptFrame r) s = .next t ∧
        Changes s.values t.values :=
    fun r => ⟨_, rfl, by rw [acceptFrame_values, values_with_rider s.settle]; exact settle_changes s⟩
  cases c with
  | reset cause => exact ⟨_, rfl, boot_changes cause s.pending s⟩
  | msTick a b => exact external_changes (msTick_changes a b) s
  | absenceExpiry => exact ⟨_, rfl, tryAbsence_changes s⟩
  | growthStep => exact ⟨_, rfl, tryGrowth_changes s⟩
  | alignedSetExpiry => exact ⟨_, rfl, tryAligned_changes s⟩
  | refpulse cycles => exact external_changes (fun _ => setClock_changes (.pulse cycles)) s
  | linkSilenceExpiry => exact ⟨_, rfl, changes_of_eq trySilence_values s⟩
  | writeSelectionInvalid bytes => exact external_changes (writeSelection_changes bytes) s
  | readSelection clocked => exact external_changes (changes_of_eq (readSelection_values clocked)) s
  | denyAdd count ids =>
    simp only [exec, execDenyAdd]
    split
    · exact request _
    · exact external_changes (writeSelection_changes _) s
  | status | readDock _ | readRecords _ | setTimeImmediate _ _ | setTimeAligned _ _ | keyLoad _ _ _ | keyDrop _
  | denyRemove _ | denyClear | holdSetReserve _ _ _ | holdSetService _ | holdClear _ | bikeCondition _ _
  | lampDirect _ _ | lampAuto _ | clearFault _ | staffRelease _ | abortGrant _ | suspend | resume | railTrain _
  | settingWrite _ _ _ | settingRead _ _ | storeSettings | restoreFactory | serviceEnter | serviceLeave =>
    exact request _
  | heldRequestApply => exact ⟨_, rfl, tryHeldRequest_changes s⟩
  | storeComplete => exact external_changes completeStore_changes s
  | present ref token => exact frame (.present ref token)
  | cancel ref => exact frame (.cancel ref)
  | query => exact frame .query
  | riderByteReceived byte stopBit => exact external_changes (changes_of_eq (receive_values byte stopBit)) s
  | riderGapTimeout => exact ⟨_, rfl, changes_of_eq tryGap_values s⟩
  | transmitComplete => exact external_changes (changes_of_eq transmitComplete_values) s
  | takePresentation => exact external_changes (changes_of_eq tryTake_values) s
  | verificationEnd => exact external_changes (changes_of_eq endCheck_values) s
  | heldCancelApply => exact ⟨_, rfl, changes_of_eq tryHeldCancel_values s⟩
  | baselineRise dock => exact row_changes (fun _ _ => eventIf_delays (rise_delays ..)) s
  | baselineReset dock => exact row_changes (fun _ _ => eventIf_delays (lowReset_delays ..)) s
  | channelTimeout rail => exact row_changes (fun _ _ => eventIf_delays (modRail_delays ..)) s
  | closingTimeout rail => exact row_changes (fun _ _ => eventIf_delays (modRail_delays ..)) s
  | controllerAbort rail => exact row_changes (fun _ _ => eventIf_delays (modRail_delays ..)) s
  | channelOutcome rail => exact row_changes (fun _ _ => eventIf_delays (channelOutcome_delays ..)) s
  | quietCountRestore rail => exact row_changes (fun _ _ => eventIf_delays (modRail_delays ..)) s
  | arbiterHandoff rail => exact row_changes (fun _ _ => eventIf_delays (handOff_delays ..)) s
  | silentReport dock => exact row_changes (fun _ _ => eventIf_delays (silentReport_delays ..)) s
  | firstCodeEvent dock => exact row_changes (fun _ _ => eventIf_delays (codeEvent_delays ..)) s
  | changeEvent dock => exact row_changes (fun _ _ => eventIf_delays (codeEvent_delays ..)) s
  | presentEvent dock => exact row_changes (fun _ _ => eventIf_delays (presentEvent_delays ..)) s
  | absentEvent dock => exact row_changes (fun _ _ => eventIf_delays (absentEvent_delays ..)) s
  | poorDock dock => exact row_changes (fun _ _ => eventIf_delays (poorDockExpired_delays ..)) s
  | grantlessRelockDeadline dock => exact row_changes (fun _ _ => eventIf_delays (relockAttemptFailed_delays ..)) s
  | grantConfirmExpiry grant => exact row_changes (fun _ _ => eventIf_delays (confirmExpiry_delays ..)) s
  | pullDeadlineExpiry grant => exact row_changes (fun _ _ => eventIf_delays (pullExpiry_delays ..)) s
  | relockDeadlineExpiry grant => exact row_changes (fun _ _ => eventIf_delays (relockExpiry_delays ..)) s
  | trainDeadlineExpiry rail => exact row_changes (fun _ _ => eventIf_delays (trainExpire_delays ..)) s
  | sweepEnd rail => exact ⟨_, rfl, onPillar_changes (trySweepEnd_retimed _ _ _)⟩

theorem step_changes {s t : State} (h : step s = .next t) : Changes s.values t.values := by
  unfold step at h
  split at h
  · cases h; exact .refl
  · next c rest _ =>
    obtain ⟨u, hu, hc⟩ := exec_changes c { s with pending := rest }
    rw [hu] at h
    cases h
    exact hc

/-! ## The settings stay in their ranges -/

/-- What `State.settingsOk` says, of the values. -/
def Values.ok (v : Values) : Prop :=
  v.work.ok ∧ (∀ d, v.delays d ≤ 31) ∧ trimOk v.clock.trim ∧ v.image.ok ∧ ∀ i, v.captured = some i → i.ok

theorem settingsOk_iff (s : State) : s.settingsOk ↔ s.values.ok := by
  have captured : (∀ run, s.store.store = some run → run.captured.ok) ↔
      ∀ i, s.store.store.map StoreRun.captured = some i → i.ok := by
    constructor
    · intro h i hi
      obtain ⟨run, hrun, rfl⟩ := Option.map_eq_some_iff.mp hi
      exact h run hrun
    · exact fun h run hrun => h _ (by rw [hrun]; rfl)
  unfold State.settingsOk
  rw [captured]
  exact Iff.rfl

theorem factory_settings_ok : Settings.factory.ok := by
  refine ⟨fun n hn => ?_, by decide⟩
  cases n <;> decide

theorem read_write_self {name : SettingName} {v : Nat} (w : Settings) (hn : name ≠ .sampleDelay)
    (hv : v ≤ name.range.2) : (w.write name v).read 0 name = v := by
  cases name
  case sampleDelay => exact absurd rfl hn
  case fitted => exact Nat.mod_eq_of_lt (Nat.lt_succ_of_le hv)
  all_goals rfl

theorem read_write_ne {name n : SettingName} (w : Settings) (v : Nat) (h : n ≠ name) :
    (w.write name v).read 0 n = w.read 0 n := by
  cases name <;> cases n <;> first | rfl | exact absurd rfl h

theorem thresholdsOk_write {name : SettingName} (w : Settings) (v : Nat) (h : name.constrained = false) :
    (w.write name v).thresholdsOk = w.thresholdsOk := by
  cases name <;> first | rfl | exact absurd h (by decide)

theorem clamp_mem (name : SettingName) (v : Nat) :
    name.range.1 ≤ clamp name.range v ∧ clamp name.range v ≤ name.range.2 := by
  have hrange : name.range.1 ≤ name.range.2 := by cases name <;> decide
  unfold clamp
  omega

/-- R181: a value written within its range leaves every other setting as it is. -/
theorem write_ok {w : Settings} (hw : w.ok) (name : SettingName) (x : Nat)
    (h : name.constrained = true → (w.write name (clamp name.range x)).thresholdsOk = true) :
    (w.write name (clamp name.range x)).ok := by
  obtain ⟨hrange, hthr⟩ := hw
  refine ⟨fun n hn => ?_, ?_⟩
  · by_cases e : n = name
    · subst e
      rw [read_write_self w hn (clamp_mem n x).2]
      exact clamp_mem n x
    · rw [read_write_ne w _ e]
      exact hrange n hn
  · cases hc : name.constrained with
    | true => exact h hc
    | false => rw [thresholdsOk_write w _ hc, hthr]

/-- R25: an accepted pulse leaves T in its range. -/
theorem trimUpdate_ok (trim cycles : Nat) : trimOk (trimUpdate trim cycles) := by
  unfold trimOk trimUpdate clamp Config.trimMin Config.trimMax
  omega

theorem factoryDelay_le : factoryDelay ≤ 31 := by decide

theorem trimNominal_ok : trimOk Config.trimNominal := ⟨by decide, by decide⟩

/-! ### What an accepted pulse does to the trim -/

theorem acceptPulse_trim (interval cycles : Nat) (k : Clock) :
    (k.acceptPulse interval cycles).trim = trimUpdate k.trim interval := by
  unfold Clock.acceptPulse
  dsimp only
  (repeat' split) <;> rfl

theorem unlock_trim (k : Clock) : k.unlock.trim = k.trim := by
  unfold Clock.unlock
  split <;> rfl

theorem tick_trim (limit : Nat) (k : Clock) : (k.tick limit).trim = k.trim := by
  unfold Clock.tick Clock.grow Clock.advance
  dsimp only
  (repeat' split) <;> rfl

/-- R22, R25: T changes at an accepted pulse alone, and stays in its range. -/
theorem move_trimOk {setUnc : Nat} {k l : Clock} (h : k.Move setUnc l) (hk : trimOk k.trim) : trimOk l.trim := by
  cases h with
  | tick limit => rwa [tick_trim]
  | growthStep => exact hk
  | unlock => rwa [unlock_trim]
  | set seconds back _ => exact hk
  | pend a _ => exact hk
  | expire => unfold Clock.alignedExpire; split <;> exact hk
  | pulse cycles =>
    unfold Clock.pulseArrives
    dsimp only
    (repeat' split)
    · exact hk
    · rw [acceptPulse_trim]; exact trimUpdate_ok ..
    · rwa [unlock_trim]

theorem change_ok {v w : Values} (h : Change v w) (hv : v.ok) : w.ok := by
  obtain ⟨hwork, hdelays, htrim, himage, hcaptured⟩ := hv
  cases h with
  | delays ds hd => exact ⟨hwork, fun d => (hd d).elim (fun e => e.trans_le (hdelays d)) id, htrim, himage, hcaptured⟩
  | clock k hk => exact ⟨hwork, hdelays, move_trimOk hk htrim, himage, hcaptured⟩
  | write name x hx => exact ⟨write_ok hwork name x hx, hdelays, htrim, himage, hcaptured⟩
  | restore => exact ⟨factory_settings_ok, fun _ => factoryDelay_le, trimNominal_ok, himage, hcaptured⟩
  | capture i w hs hd ht =>
    refine ⟨hwork, hdelays, htrim, himage, fun j hj => ?_⟩
    cases hj
    exact ⟨hs ▸ hwork, fun d => hd d ▸ hdelays d, ht ▸ htrim⟩
  | complete i hi => exact ⟨hwork, hdelays, htrim, hcaptured i hi, nofun⟩
  | load =>
    obtain ⟨hsettings, hds, ht⟩ := himage
    exact ⟨hsettings, hds, ht, ⟨hsettings, hds, ht⟩, nofun⟩
  | factory => exact ⟨factory_settings_ok, fun _ => factoryDelay_le, trimNominal_ok, himage, nofun⟩

theorem changes_ok {v w : Values} (h : Changes v w) (hv : v.ok) : w.ok := by
  induction h with
  | refl => exact hv
  | tail _ hc ih => exact change_ok hc ih

/-- Settles O52: every step is a chain of changes, and each change keeps the ranges. -/
theorem settingsStayInRange : Obligations.SettingsStayInRange := by
  intro s t hs h
  exact (settingsOk_iff t).mpr (changes_ok (step_changes h) ((settingsOk_iff s).mp hs))

end Sys2Proof.Machine
end

