-- ==== Sys2Proof/Proofs/ClockBounds.lean ====
section
/-!
PROOFS. The Station Clock stays within its bounds (R23, R28, R30, R35): one lemma for each move of the clock.
-/

namespace Sys2Proof.Machine

/-- R28: the clock state is the derived one, and a LOCKED clock has its locked-since-label mark. -/
def Clock.derived (k : Clock) : Prop :=
  k.state = deriveClock k.labelled k.k k.lockedMark ∧ (k.state = .locked → k.lockedMark = true)

theorem deriveClock_locked {labelled : Bool} {k : Nat} {mark : Bool} (h : deriveClock labelled k mark = .locked)
    (m : Bool) : deriveClock labelled k m = .locked := by
  unfold deriveClock at *
  split_ifs at *
  rfl

/-- R28: deriving the state again keeps it, though the mark may be set meanwhile. -/
theorem derive_derived (k : Clock) : k.derive.derived := by
  unfold Clock.derived Clock.derive
  dsimp only
  by_cases h : deriveClock k.labelled k.k k.lockedMark = .locked
  · simp [h, deriveClock_locked h]
  · simp [h]

theorem Clock.boot_ok (trim : Nat) : (Clock.boot trim).ok := by
  simp [Clock.ok, Clock.boot, Clock.now, deriveClock, Config.secondMax]

theorem growthStep_ok {k : Clock} (h : k.ok) : k.growthStep.ok := by
  obtain ⟨hms, hsec, hunc, hrest⟩ := h
  exact ⟨hms, hsec, Nat.min_le_left .., hrest⟩

theorem unlock_ok {k : Clock} (h : k.ok) : k.unlock.ok := by
  unfold Clock.unlock
  split
  · exact h
  · obtain ⟨hms, hsec, hunc, hlab, -, hnow, habs, -, -, hun, hal⟩ := h
    obtain ⟨hstate, hmark⟩ := derive_derived { k with k := 0, growth := 0, growthDue := false }
    exact ⟨hms, hsec, hunc, hlab, Nat.zero_le _, hnow, habs, hstate, hmark,
      fun hl => ⟨(hun hl).1, (hun hl).2.1, rfl⟩, hal⟩

theorem pend_ok {k : Clock} (h : k.ok) (a : AlignedSet) (ha : a.seconds ≤ Config.secondMax) :
    Clock.ok { k with aligned := some a } := by
  obtain ⟨hms, hsec, hunc, hlab, hk, hnow, habs, hstate, hmark, hun, -⟩ := h
  exact ⟨hms, hsec, hunc, hlab, hk, hnow, habs, hstate, hmark, hun, fun b hb => by cases hb; exact ha⟩

/-- R32 to R35: a label keeps the bounds when its second and its uncertainties lie in theirs. -/
theorem label_ok {k : Clock} {seconds labelUnc unc : Nat} (back : Bool) (hsec : seconds ≤ Config.secondMax)
    (hlab : labelUnc ≤ 5000) (hunc : unc ≤ Config.uncertaintyMax) (hk : k.k ≤ 255)
    (habs : k.absence ≤ Config.absenceMax) : (k.label seconds labelUnc unc back).ok := by
  obtain ⟨hstate, hmark⟩ := derive_derived
    { k with
      sec := seconds, ms := 0, labelUnc := labelUnc, unc := unc, labelled := true, lockedMark := false, growth := 0
      growthDue := false, aligned := none
      high := if back then seconds * 1000 else max k.high (seconds * 1000) }
  refine ⟨Nat.zero_le _, hsec, hunc, hlab, hk, ?_, habs, hstate, hmark, nofun, nofun⟩
  show seconds * 1000 + 0 ≤ if back then seconds * 1000 else max k.high (seconds * 1000)
  split <;> omega

theorem setImmediate_ok {k : Clock} (h : k.ok) {setUnc seconds : Nat} (back : Bool) (hu : setUnc ≤ 5000)
    (hsec : seconds ≤ Config.secondMax) : (k.setImmediate setUnc seconds back).ok := by
  obtain ⟨-, -, -, -, hk, -, habs, -⟩ := h
  exact label_ok back hsec hu (hu.trans (by decide)) hk habs

theorem alignedExpire_ok {k : Clock} (h : k.ok) {setUnc : Nat} (hu : setUnc ≤ 5000) : (k.alignedExpire setUnc).ok := by
  unfold Clock.alignedExpire
  split
  · next a ha =>
    obtain ⟨-, -, -, -, -, -, -, -, -, -, hal⟩ := id h
    exact setImmediate_ok h _ hu (hal a ha)
  · exact h

/-! ## The ms tick -/

theorem nextMs_ok {k : Clock} (h : k.ok) : k.nextMs.ok := h

/-- R23: m and S after a tick, and what the tick leaves. H is raised after. -/
theorem advance_bounds {k : Clock} (h : k.ok) :
    k.advance.ms ≤ 999 ∧ k.advance.sec ≤ Config.secondMax ∧
      (k.advance.labelled = false → k.advance.sec = 0 ∧ k.advance.ms = 0 ∧ k.advance.k = 0) := by
  obtain ⟨hms, hsec, -, -, -, -, -, -, -, hun, -⟩ := h
  unfold Clock.advance
  split
  · next hl =>
    split
    · next hlt => exact ⟨hlt, hsec, fun hf => absurd hl (by rw [hf]; decide)⟩
    · split
      · next hlt => exact ⟨Nat.zero_le _, hlt, fun hf => absurd hl (by rw [hf]; decide)⟩
      · exact ⟨hms, hsec, hun⟩
  · exact ⟨hms, hsec, hun⟩

/-- R23: what an advance of m and S leaves as it was. -/
theorem advance_frame (k : Clock) : k.advance = { k with ms := k.advance.ms, sec := k.advance.sec } := by
  unfold Clock.advance
  (repeat' split) <;> rfl

theorem advance_raiseHigh_ok {k : Clock} (h : k.ok) : k.advance.raiseHigh.ok := by
  obtain ⟨hms, hsec, hun⟩ := advance_bounds h
  obtain ⟨-, -, hunc, hlab, hk, -, habs, hstate, hmark, -, hal⟩ := h
  have hnow : k.advance.now ≤ k.advance.raiseHigh.high := le_max_right _ _
  rw [advance_frame] at *
  exact ⟨hms, hsec, hunc, hlab, hk, hnow, habs, hstate, hmark, hun, hal⟩

theorem grow_ok {k : Clock} (h : k.ok) (limit : Nat) : (k.grow limit).ok := by
  unfold Clock.grow
  split <;> exact h

theorem tick_ok {k : Clock} (h : k.ok) (limit : Nat) : (k.tick limit).ok := by
  obtain ⟨hms, hsec, hunc, hlab, hk, hnow, -, hstate, hmark, hun, hal⟩ :=
    grow_ok (advance_raiseHigh_ok (nextMs_ok h)) limit
  refine ⟨hms, hsec, hunc, hlab, hk, hnow, Nat.min_le_left .., hstate, hmark, hun, fun b hb => ?_⟩
  obtain ⟨a, ha, rfl⟩ := Option.map_eq_some_iff.mp hb
  exact hal a ha

/-! ## Reference pulses -/

/-- R26: the phase correction of a labelled clock. -/
theorem correctPhase_ok {k : Clock} (h : k.ok) (hl : k.labelled = true) : k.correctPhase.ok := by
  obtain ⟨-, hsec, -, hlab, hk, -, habs, -, -, -, hal⟩ := h
  have unlabelled : ∀ {P : Prop}, k.labelled = false → P := fun hf => absurd hl (by rw [hf]; decide)
  unfold Clock.correctPhase
  dsimp only
  obtain ⟨hstate, hmark⟩ := derive_derived (Clock.countLock (Clock.restartMs { k with
    sec := if k.ms < 500 then k.sec else min Config.secondMax (k.sec + 1)
    unc := min Config.uncertaintyMax (k.labelUnc + (if k.ms < 500 then k.ms else 1000 - k.ms) + 1)
    growth := 0, growthDue := false }))
  refine ⟨Nat.zero_le _, ?_, Nat.min_le_left .., hlab, Nat.min_le_left .., le_max_right _ _, habs, hstate, hmark,
    unlabelled, hal⟩
  show (if _ then _ else _) ≤ _
  split
  · exact hsec
  · exact Nat.min_le_left ..

theorem acceptPulse_ok {k : Clock} (h : k.ok) (interval cycles : Nat) : (k.acceptPulse interval cycles).ok := by
  have hmarked : Clock.ok { k.markPulse cycles with trim := trimUpdate k.trim interval, absence := 0 } := by
    unfold Clock.ok Clock.now at *
    obtain ⟨hms, hsec, hunc, hlab, hk, hnow, -, hrest⟩ := h
    exact ⟨hms, hsec, hunc, hlab, hk, hnow, Nat.zero_le _, hrest⟩
  unfold Clock.acceptPulse
  dsimp only
  split
  · next a ha =>
    obtain ⟨-, -, -, -, -, -, -, -, -, -, hal⟩ := h
    exact label_ok _ (hal a ha) (Nat.zero_le _) (by decide) (Nat.min_le_left ..) (Nat.zero_le _)
  · split
    · next hl => exact correctPhase_ok hmarked hl
    · exact hmarked

theorem pulseArrives_ok {k : Clock} (h : k.ok) (cycles : Nat) : (k.pulseArrives cycles).ok := by
  unfold Clock.pulseArrives
  dsimp only
  (repeat' split)
  · exact h
  · exact acceptPulse_ok h _ _
  · exact unlock_ok h

/-! ## Every step -/

theorem move_ok {k l : Clock} {setUnc : Nat} (hu : setUnc ≤ 5000) (hk : k.ok) (h : k.Move setUnc l) : l.ok := by
  cases h with
  | tick limit => exact tick_ok hk limit
  | growthStep => exact growthStep_ok hk
  | unlock => exact unlock_ok hk
  | set seconds back hs => exact setImmediate_ok hk back hu hs
  | pend a ha => exact pend_ok hk a ha
  | expire => exact alignedExpire_ok hk hu
  | pulse cycles => exact pulseArrives_ok hk cycles

/-- R181: SET_UNCERTAINTY is at most 5,000. -/
theorem setUncertainty_le {w : Settings} (h : w.ok) : w.setUncertainty ≤ 5000 := (h.1 .setUncertainty (by decide)).2

theorem change_clock_ok {v w : Values} (h : Change v w) (hv : v.ok) (hk : v.clock.ok) : w.clock.ok := by
  cases h with
  | clock l hl => exact move_ok (setUncertainty_le hv.1) hk hl
  | load => exact Clock.boot_ok _
  | factory => exact Clock.boot_ok _
  | delays _ _ | write _ _ _ | restore | capture _ _ _ _ _ | complete _ _ => exact hk

theorem changes_clock_ok {v w : Values} (h : Changes v w) (hv : v.ok) (hk : v.clock.ok) : w.clock.ok := by
  induction h with
  | refl => exact hk
  | tail hs hc ih => exact change_clock_ok hc (changes_ok hs hv) ih

/-- Settles O53: every step is a chain of changes, and each change of the clock keeps its bounds. -/
theorem clockStaysWithinItsBounds : Obligations.ClockStaysWithinItsBounds := fun s _ hs hk h =>
  changes_clock_ok (step_changes h) ((settingsOk_iff s).mp hs) hk

end Sys2Proof.Machine
end

