-- ==== Sys2Proof/Proofs/ClockChange.lean ====
section
/-!
PROOFS. What a change of the Station Clock brings in the other blocks (R11, R29, R36, R37, R55, R177), as one equation for
each operation that enters records: `Pillar.entered` is the pillar after records have been offered in turn.
-/

namespace Sys2Proof.Machine

/-! ## The end of an event (R57, R166) -/

/-- R57: the lamps of an event change the rails alone. -/
theorem relamp_frame (before p : Pillar) : ∃ a b, before.relamp p = { p with railA := a, railB := b } := by
  have dock : ∀ (q : Pillar) (d : DockNo), ∃ a b, before.relampDock q d = { q with railA := a, railB := b } := by
    intro q d
    rcases relampDock_cases before q d with h | ⟨-, -, -, h⟩
    · exact ⟨q.railA, q.railB, h⟩
    · rw [h]
      unfold Pillar.join Pillar.modRail Pillar.setRail
      split
      · exact ⟨_, q.railB, rfl⟩
      · exact ⟨q.railA, _, rfl⟩
  unfold Pillar.relamp
  induction allDocks generalizing p with
  | nil => exact ⟨p.railA, p.railB, rfl⟩
  | cons d rest ih =>
    obtain ⟨a, b, hd⟩ := dock p d
    obtain ⟨a', b', hr⟩ := ih (before.relampDock p d)
    exact ⟨a', b', by rw [List.foldl_cons, hr, hd]⟩

/-- R57, R166: beyond its own effect, an event changes the rails and the output side alone. -/
theorem event_frame (c : Ctx) (f : Pillar → Pillar) (p : Pillar) :
    ∃ a b out tx, p.event c f = { f p with railA := a, railB := b, out := out, tx := tx } := by
  obtain ⟨a, b, h⟩ := relamp_frame p (f p)
  unfold Pillar.event
  rcases transmit_cases c (p.relamp (f p)) with ⟨x, rest, -, -, ht⟩ | ⟨-, ht⟩
  · exact ⟨a, b, rest, _, by rw [ht, h]⟩
  · exact ⟨a, b, (f p).out, (f p).tx, by rw [ht, h]⟩

/-! ## Records that are offered in turn (R177) -/

/-- R177: the places left in the Record Queue for a record that is not a grant's. -/
def Pillar.places (p : Pillar) : Nat := Config.roomMax - (p.records.length + p.active)

/-- R177: the pillar after lesser records have been offered in turn: they enter while there is room, and OVERFLOW is set
when one finds none. `docks` are the docks as the events that make the records leave them. -/
def Pillar.entered (c : Ctx) (bodies : List RecordBody) (docks : Vector Dock 48) (p : Pillar) : Pillar :=
  { p with
    docks := docks
    records := p.records ++ (bodies.take p.places).map (fun body => { time := c.stamp, body := body })
    overflow := p.overflow || Decidable.decide (p.places < bodies.length)
    attention := p.attention || !(bodies.take p.places).isEmpty }

theorem entered_nil (c : Ctx) (p : Pillar) : p.entered c [] p.docks = p := by
  simp [Pillar.entered]

theorem lesser_eq (c : Ctx) (body : RecordBody) (p : Pillar) : p.lesser c body = p.entered c [body] p.docks := by
  have room : p.room = true ↔ 0 < p.places := by
    simp only [Pillar.room, Pillar.places, decide_eq_true_eq]
    omega
  rcases lesser_cases c body p with ⟨hr, h⟩ | ⟨hr, h⟩
  · obtain ⟨n, hn⟩ : ∃ n, p.places = n + 1 := Nat.exists_eq_add_of_lt (room.mp hr) |>.imp fun n h => by omega
    simp [h, Pillar.entered, hn]
  · have hn : p.places = 0 := Nat.eq_zero_of_not_pos fun h => by rw [room.mpr h] at hr; cases hr
    simp [h, Pillar.entered, hn]

/-- Records that enter take their places from those offered after them. -/
theorem entered_places (c : Ctx) (bodies : List RecordBody) (docks : Vector Dock 48) (p : Pillar) :
    (p.entered c bodies docks).places = p.places - bodies.length := by
  have active : (p.entered c bodies docks).active = p.active := rfl
  simp only [Pillar.places, active]
  simp only [Pillar.entered, Pillar.places, List.length_append, List.length_map, List.length_take]
  omega

theorem entered_entered (c : Ctx) (xs ys : List RecordBody) (v w : Vector Dock 48) (p : Pillar) :
    (p.entered c xs v).entered c ys w = p.entered c (xs ++ ys) w := by
  have overflow : (p.overflow || decide (p.places < xs.length) || decide (p.places - xs.length < ys.length)) =
      (p.overflow || decide (p.places < (xs ++ ys).length)) := by
    rw [Bool.or_assoc, ← Bool.decide_or, List.length_append]
    congr 2
    exact propext (by omega)
  have attention : (p.attention || !(xs.take p.places).isEmpty || !(ys.take (p.places - xs.length)).isEmpty) =
      (p.attention || !((xs ++ ys).take p.places).isEmpty) := by
    rw [List.take_append, Bool.or_assoc]
    cases xs.take p.places <;> simp
  rw [show ∀ q : Pillar, q.entered c ys w = { q with
      docks := w
      records := q.records ++ (ys.take q.places).map (fun body => { time := c.stamp, body := body })
      overflow := q.overflow || Decidable.decide (q.places < ys.length)
      attention := q.attention || !(ys.take q.places).isEmpty } from fun _ => rfl, entered_places]
  simp only [Pillar.entered, overflow, attention, List.take_append, List.map_append, List.append_assoc]

theorem prune_entered (c : Ctx) (bodies : List RecordBody) (docks : Vector Dock 48) (k : Clock) (p : Pillar) :
    (p.entered c bodies docks).prune k = (p.prune k).entered c bodies docks := rfl

/-! ## Holds that lapse (R55) -/

/-- R55: whether a hold stays when S becomes `sec`. -/
def Hold.outlasts (sec : Nat) : Hold → Bool
  | .reserve _ expiry => !Decidable.decide (expiry < sec)
  | .service => true

/-- R55: a dock after a second boundary at which S becomes `sec`. -/
def Dock.lapsed (sec : Nat) (k : Dock) : Dock :=
  { k with hold := k.hold.filter (Hold.outlasts sec) }

/-- R55: the record that the hold of a dock makes at such a boundary. -/
def Dock.lapseBody (sec : Nat) (d : DockNo) (k : Dock) : Option RecordBody :=
  match k.hold with
  | some (.reserve id expiry) => if expiry < sec then some (.reservationLapsed d id) else none
  | _ => none

/-- A dock whose hold does not lapse stays as it is. -/
theorem lapsed_of_none {sec : Nat} {d : DockNo} {k : Dock} (h : k.lapseBody sec d = none) : k.lapsed sec = k := by
  obtain ⟨state, cause, bike, hold, grant, lamp, owed, recovery, watch, poor, relock, ident⟩ := k
  simp only [Dock.lapseBody] at h
  simp only [Dock.lapsed]
  split at h
  · split at h
    · cases h
    · next hlt => simp [Option.filter, Hold.outlasts, hlt]
  · next hr =>
    cases hold with
    | none => rfl
    | some hold =>
      cases hold with
      | service => rfl
      | reserve id expiry => exact absurd rfl (hr id expiry)

theorem lapseDock_eq (c : Ctx) (sec : Nat) (p : Pillar) (d : DockNo) :
    p.lapseDock c sec d =
      p.entered c ((p.dock d).lapseBody sec d).toList (p.setDock d ((p.dock d).lapsed sec)).docks := by
  have same : p.setDock d (p.dock d) = p := by
    simp [Pillar.setDock, Pillar.dock]
  unfold Pillar.lapseDock
  split
  · next id expiry h =>
    by_cases hlt : expiry < sec
    · have hbody : (p.dock d).lapseBody sec d = some (.reservationLapsed d id) := by simp [Dock.lapseBody, h, hlt]
      have hlapsed : (p.dock d).lapsed sec = { p.dock d with hold := none } := by
        simp [Dock.lapsed, Hold.outlasts, h, hlt, Option.filter]
      rw [if_pos hlt, lesser_eq, hbody, hlapsed]
      rfl
    · have hbody : (p.dock d).lapseBody sec d = none := by simp [Dock.lapseBody, h, hlt]
      rw [if_neg hlt, hbody, lapsed_of_none hbody, same]
      exact (entered_nil c p).symm
  · next h =>
    have hbody : (p.dock d).lapseBody sec d = none := by
      unfold Dock.lapseBody
      split
      · next id expiry hr => exact absurd hr (h id expiry)
      · rfl
    rw [hbody, lapsed_of_none hbody, same]
    exact (entered_nil c p).symm

/-- R55: the holds of the docks in a list lapse in turn. -/
theorem lapse_list (c : Ctx) (sec : Nat) (l : List DockNo) (hl : l.Nodup) (p : Pillar) :
    ∃ docks : Vector Dock 48,
      l.foldl (Pillar.lapseDock c sec) p =
        p.entered c (l.filterMap (fun d => (p.dock d).lapseBody sec d)) docks ∧
      ∀ d : DockNo, docks[d] = if d ∈ l then (p.dock d).lapsed sec else p.dock d := by
  induction l generalizing p with
  | nil => exact ⟨p.docks, (entered_nil c p).symm, fun _ => rfl⟩
  | cons d rest ih =>
    obtain ⟨hd, hrest⟩ := List.nodup_cons.mp hl
    obtain ⟨docks, hfold, hdocks⟩ := ih hrest (p.lapseDock c sec d)
    have dock : ∀ e : DockNo, (p.lapseDock c sec d).dock e = if d = e then (p.dock d).lapsed sec else p.dock e :=
      fun e => by
        rw [lapseDock_eq]
        exact setDock_dock p d e _
    have other : ∀ e ∈ rest, (p.lapseDock c sec d).dock e = p.dock e := fun e he => by
      rw [dock, if_neg (by rintro rfl; exact hd he)]
    refine ⟨docks, ?_, fun e => ?_⟩
    · rw [List.foldl_cons, hfold, List.filterMap_congr (fun e he => by rw [other e he]), lapseDock_eq,
        entered_entered, List.filterMap_cons]
      cases (p.dock d).lapseBody sec d <;> rfl
    · rw [hdocks]
      by_cases hde : d = e
      · subst hde
        rw [if_neg hd, dock, if_pos rfl, if_pos (List.mem_cons_self ..)]
      · rw [dock, if_neg hde]
        simp only [List.mem_cons, Ne.symm hde, false_or]

theorem lapse_eq (c : Ctx) (sec : Nat) (p : Pillar) :
    p.lapse c sec = p.entered c ((p.lapsing sec).map (fun e => .reservationLapsed e.1 e.2))
      (mapTable (Dock.lapsed sec) p.docks) := by
  obtain ⟨docks, hfold, hdocks⟩ := lapse_list c sec allDocks (List.nodup_finRange 48) p
  have bodies : allDocks.filterMap (fun d => (p.dock d).lapseBody sec d) =
      (p.lapsing sec).map (fun e => .reservationLapsed e.1 e.2) := by
    rw [Pillar.lapsing, List.map_filterMap]
    refine List.filterMap_congr fun d _ => ?_
    rcases h : (p.dock d).hold with _ | ⟨id, expiry⟩ | _
    · simp [Dock.lapseBody, h]
    · by_cases hlt : expiry < sec <;> simp [Dock.lapseBody, h, hlt]
    · simp [Dock.lapseBody, h]
  have table : docks = mapTable (Dock.lapsed sec) p.docks := by
    refine Vector.ext fun i hi => ?_
    rw [mapTable_getElem]
    exact (hdocks ⟨i, hi⟩).trans (if_pos (mem_allDocks _))
  unfold Pillar.lapse
  rw [hfold, bodies, table]

/-! ## A change of the clock -/

/-- R29, R37: the CLOCK record, then, at a second boundary, the pruning and the lapses. -/
theorem clockChanged_eq (c : Ctx) (old new : Clock) (p : Pillar) :
    p.clockChanged c old new =
      if old.sec < new.sec then
        (p.prune new).entered c (p.clockBodies old new) (mapTable (Dock.lapsed new.sec) p.docks)
      else p.entered c (p.clockBodies old new) p.docks := by
  have record : (if new.state ≠ old.state then p.lesser c (.clock new.state) else p) =
      p.entered c (if new.state = old.state then [] else [.clock new.state]) p.docks := by
    by_cases h : new.state = old.state
    · rw [if_neg (not_not_intro h), if_pos h, entered_nil]
    · rw [if_pos h, if_neg h, lesser_eq]
  unfold Pillar.clockChanged Pillar.clockBodies
  dsimp only
  rw [record]
  by_cases h : old.sec < new.sec
  · rw [if_pos h, if_pos h, if_pos h, prune_entered, lapse_eq, entered_entered]
    rfl
  · rw [if_neg h, if_neg h, if_neg h, List.append_nil]

/-- R55: the docks after a change of the clock that is a second boundary, and after one that is not. -/
theorem holdAfter_eq (old new : Clock) (p : Pillar) (d : DockNo) :
    { p.dock d with hold := p.holdAfter old new d } =
      if old.sec < new.sec then (p.dock d).lapsed new.sec else p.dock d := by
  have hold : p.holdAfter old new d =
      if old.sec < new.sec then ((p.dock d).lapsed new.sec).hold else (p.dock d).hold := by
    unfold Pillar.holdAfter Dock.lapsed
    by_cases hs : old.sec < new.sec
    · rcases h : (p.dock d).hold with _ | ⟨id, expiry⟩ | _ <;>
        simp [hs, Hold.outlasts, Option.filter]
    · rcases h : (p.dock d).hold with _ | ⟨id, expiry⟩ | _ <;> simp [hs, Option.filter]
  rw [hold]
  split <;> rfl

/-- R11: the pruning of the spent list, in the terms of the statements. -/
theorem prune_spent (k : Clock) (p : Pillar) : (p.prune k).spent = p.prunedSpent k := by
  unfold Pillar.prune Pillar.prunedSpent
  refine List.filter_congr fun e _ => ?_
  congr 1
  rw [Clock.expired, Clock.now, ← decide_not]
  exact decide_eq_decide.mpr not_lt

/-- R29, R177: the records of a change of the clock, as they stand after the event. -/
theorem clockBrings_of_entered {old new : Clock} {c : Ctx} {p q : Pillar}
    (hc : c.stamp = if new.labelled then some new.sec else none)
    (hrecords : q.records = (p.entered c (p.clockBodies old new) p.docks).records)
    (hoverflow : q.overflow = (p.entered c (p.clockBodies old new) p.docks).overflow)
    (hattention : q.attention = (p.entered c (p.clockBodies old new) p.docks).attention)
    (hspent : q.spent = if old.sec < new.sec then p.prunedSpent new else p.spent) : p.clockBrings old new q := by
  rw [Pillar.entered, hc] at *
  exact ⟨hrecords, hoverflow, hattention, hspent⟩

/-- R11, R29, R37, R55: all that the pillar takes from a new value of the clock. -/
theorem setClock_brings (s : State) (k : Clock) :
    s.pillar.clockBrings s.clock k (s.setClock k).pillar ∧ (s.setClock k).pillar.grants = s.pillar.grants ∧
      ∀ d, (s.setClock k).pillar.dock d = { s.pillar.dock d with hold := s.pillar.holdAfter s.clock k d } := by
  unfold State.setClock
  dsimp only
  split
  · set u : State := { s with clock := k, tcu := { s.tcu with mark := restartMark s.clock k s.tcu.mark } }
    obtain ⟨a, b, out, tx, he⟩ := event_frame u.ctx (Pillar.clockChanged u.ctx s.clock k) s.pillar
    rw [event_pillar, he, clockChanged_eq]
    by_cases hs : s.clock.sec < k.sec
    · rw [if_pos hs]
      refine ⟨clockBrings_of_entered (c := u.ctx) rfl rfl rfl rfl ?_, rfl, fun d => ?_⟩
      · rw [if_pos hs]; exact prune_spent k s.pillar
      · rw [holdAfter_eq, if_pos hs]
        exact mapTable_getElem ..
    · rw [if_neg hs]
      refine ⟨clockBrings_of_entered (c := u.ctx) rfl rfl rfl rfl ?_, rfl, fun d => ?_⟩
      · rw [if_neg hs]; rfl
      · rw [holdAfter_eq, if_neg hs]; rfl
  · next h =>
    obtain ⟨hstate, hsec⟩ := not_or.mp h
    have bodies : s.pillar.clockBodies s.clock k = [] := by
      rw [Pillar.clockBodies, if_pos (not_not.mp hstate), if_neg hsec]
      rfl
    refine ⟨?_, rfl, fun d => ?_⟩
    · unfold Pillar.clockBrings
      simp [bodies, hsec]
    · rw [holdAfter_eq, if_neg hsec]

end Sys2Proof.Machine
end

