-- ==== Sys2Proof/Proofs/TimeSets.lean ====
section
/-!
PROOFS. SET_TIME (R29, R32, R33), and what the commands of the clock share: a request that is applied and answered in the
step that takes it (R169, R170), and a change of the clock (R36).
-/

namespace Sys2Proof.Machine

/-! ## Requests that are applied and answered at once -/

/-- A row of the command catalogue takes the events still due and then its request. DENY_ADD tests its body first. -/
theorem exec_row {c : Instr} {r : Request} (h : commandRequest c = some r) (hd : ∀ count ids, c ≠ .denyAdd count ids)
    (s : State) : exec c s = .next (s.settle.takeRequest r) := by
  cases c <;> cases h <;> first | rfl | exact absurd rfl (hd _ _)

/-- R169, R170: what a request leaves that its owner answers in the step that takes it. -/
theorem takeRequest_serves {u t : State} {r : Request} {resp : Response} (hp : u.link.port ≠ .working)
    (hc : heldKind r = false ∨ u.tcu.check = none)
    (h : applyRequest r { u with link := u.link.take r } = (t, resp)) (hl : t.link = u.link.take r) :
    u.takeRequest r = { t with link := u.link.served resp } := by
  rw [takeRequest_accepts hp hc, State.serve, h]
  dsimp only
  rw [hl, take_answer]

/-- R171: a request that its owner answers without a change leaves the port served and nothing else. -/
theorem takeRequest_answers {u : State} {r : Request} {resp : Response} (hp : u.link.port ≠ .working)
    (hc : heldKind r = false ∨ u.tcu.check = none)
    (h : ∀ l : LinkPort, applyRequest r { u with link := l } = ({ u with link := l }, resp)) :
    u.takeRequest r = u.served resp :=
  takeRequest_serves (t := { u with link := u.link.take r }) hp hc (h _) rfl

/-! ## Changes of the clock -/

/-- R29, R36, R37: a new value of the clock that changes neither its state nor its label and does not raise S changes
nothing else. -/
theorem setClock_quiet {s : State} {k : Clock} (hstate : k.state = s.clock.state) (hsec : k.sec = s.clock.sec)
    (hl : k.labelled = s.clock.labelled) : s.setClock k = { s with clock := k } := by
  have mark : restartMark s.clock k s.tcu.mark = s.tcu.mark := by
    unfold restartMark
    rw [hl]
    cases s.clock.labelled <;> rfl
  unfold State.setClock
  dsimp only
  rw [mark, if_neg (by simp [hstate, hsec])]

/-- R36: the mark is set at the first label alone. -/
theorem restartMark_of_labelled {old new : Clock} (h : new.labelled = true) (mark : Nat) :
    restartMark old new mark = if old.labelled then mark else new.sec - new.ticks / 1000 := by
  unfold restartMark
  rw [h]
  cases old.labelled <;> rfl

/-- R36: a change that leaves the label as it was leaves the mark. -/
theorem setClock_tcu_of_label {s : State} {k : Clock} (h : k.labelled = s.clock.labelled) :
    (s.setClock k).tcu = s.tcu := by
  rw [setClock_tcu]
  unfold restartMark
  rw [h]
  cases s.clock.labelled <;> rfl

/-- R55: no hold lapses when S does not increase. -/
theorem setClock_docks {s : State} {k : Clock} (h : k.sec = s.clock.sec) :
    (s.setClock k).pillar.docks = s.pillar.docks := by
  obtain ⟨-, -, hdock⟩ := setClock_brings s k
  refine Vector.ext fun i hi => ?_
  have hd := hdock ⟨i, hi⟩
  rwa [holdAfter_eq, if_neg (by omega)] at hd

/-! ## SET_TIME -/

/-- R32: a SET_TIME to a second below S − 2 of a labelled clock is refused without force. -/
theorem applySetTime_backward {s : State} {seconds : Word} {mode : Byte} (hm : mode = 1#8 ∨ mode = 2#8)
    (hb : s.clock.backward seconds.toNat = true) :
    s.applySetTime seconds mode 0#8 = (s, .refuse .timeBackward) := by
  unfold State.applySetTime
  rw [if_neg (by rcases hm with rfl | rfl <;> decide)]
  exact if_pos ⟨hb, rfl⟩

/-- R32, R33: any other SET_TIME is applied, or waits for the next pulse. -/
theorem applySetTime_taken {s : State} {seconds : Word} {force : Byte} (hf : force = 0#8 ∨ force = 1#8)
    (hb : ¬ (s.clock.backward seconds.toNat = true ∧ force = 0#8)) :
    s.applySetTime seconds 1#8 force =
      (s.setClock (s.clock.setImmediate s.store.work.setUncertainty seconds.toNat (s.clock.backward seconds.toNat)),
        .ok) ∧
    s.applySetTime seconds 2#8 force =
      ({ s with clock := { s.clock with aligned := some {
          seconds := seconds.toNat, forcedBack := s.clock.backward seconds.toNat, expiry := 0 } } }, .ok) := by
  have hforce : ¬ (force ≠ 0#8 ∧ force ≠ 1#8) := fun ⟨h0, h1⟩ => hf.elim h0 h1
  unfold State.applySetTime
  constructor
  · rw [if_neg (by simpa using hforce)]
    dsimp only
    rw [if_neg hb]
    rfl
  · rw [if_neg (by simpa using hforce)]
    dsimp only
    rw [if_neg hb]
    rfl

theorem backward_iff (k : Clock) (seconds : Nat) :
    k.backward seconds = true ↔ k.labelled = true ∧ seconds + 2 < k.sec := by
  simp [Clock.backward]

/-- Settles O12: the request is applied in the step that takes it, and the new clock brings what `setClock_brings`
says. -/
theorem setTimeLabelsTheClock : Obligations.SetTimeLabelsTheClock := by
  intro s u seconds force hu hp hc hf
  rw [exec_row (c := .setTimeImmediate seconds force) rfl fun _ _ => nofun,
    exec_row (c := .setTimeAligned seconds force) rfl fun _ _ => nofun, ← hu]
  clear hu
  refine ⟨fun ⟨hl, hb, h0⟩ => ?_, fun hnot => ?_⟩
  · subst h0
    have back := (backward_iff u.clock seconds.toNat).mpr ⟨hl, hb⟩
    exact
      ⟨congrArg Host.Outcome.next (takeRequest_answers hp (.inr hc) fun _ => applySetTime_backward (.inl rfl) back),
        congrArg Host.Outcome.next (takeRequest_answers hp (.inr hc) fun _ => applySetTime_backward (.inr rfl) back)⟩
  · have back : ¬ (u.clock.backward seconds.toNat = true ∧ force = 0#8) := by
      rw [backward_iff, and_assoc]
      exact hnot
    set v : State := { u with link := u.link.take (.setTime seconds 1#8 force) }
    set k := u.clock.setImmediate u.store.work.setUncertainty seconds.toNat (u.clock.backward seconds.toNat)
    obtain ⟨hbrings, hgrants, hdocks⟩ := setClock_brings v k
    have immediate := takeRequest_serves (r := .setTime seconds 1#8 force) hp (.inr hc)
      (applySetTime_taken (s := v) hf back).1 (setClock_link v k)
    have aligned := takeRequest_serves (r := .setTime seconds 2#8 force) hp (.inr hc)
      (applySetTime_taken (s := { u with link := u.link.take (.setTime seconds 2#8 force) }) hf back).2 rfl
    refine ⟨⟨_, congrArg Host.Outcome.next immediate, ?_⟩, congrArg Host.Outcome.next aligned⟩
    have hclock : (v.setClock k).clock = k := setClock_clock v k
    have htcu : (v.setClock k).tcu.mark = if u.clock.labelled then u.tcu.mark else
        seconds.toNat - u.clock.ticks / 1000 := by
      rw [setClock_tcu]
      exact restartMark_of_labelled rfl _
    dsimp only
    rw [hclock]
    refine ⟨rfl, rfl, rfl, rfl, rfl, rfl, rfl, rfl, rfl, rfl, rfl, rfl, fun h => ?_, fun h => ?_, htcu, hbrings,
      hgrants, hdocks, rfl⟩
    · exact if_pos ((backward_iff ..).mpr h)
    · exact if_neg (fun hb => h ((backward_iff ..).mp hb))

end Sys2Proof.Machine
end

