-- ==== Sys2Proof/Proofs/Pulses.lean ====
section
/-!
PROOFS. The reference pulse (R24, R25) and the events the ms tick brings to the clock (R27, R31, R34).
-/

namespace Sys2Proof.Machine

/-- R24: the row of a pulse takes the events still due, and the pulse changes the clock. -/
theorem exec_refpulse (cycles : Nat) (s : State) :
    exec (.refpulse cycles) s = .next (s.settle.setClock (s.settle.clock.pulseArrives cycles)) := rfl

/-! ## What a pulse does to the clock -/

/-- R24: with no count running, a pulse starts it. -/
theorem pulseArrives_start {k : Clock} (h : k.pulse = none) (cycles : Nat) :
    k.pulseArrives cycles = { k with pulse := some 0, elapsed := k.elapsed + cycles } := by
  unfold Clock.pulseArrives
  rw [h]
  rfl

/-- R24: a pulse outside the bounds of the interval is rejected. -/
theorem pulseArrives_reject {k : Clock} {n cycles : Nat} (h : k.pulse = some n)
    (hn : n + cycles < 4055040 ∨ 4136960 < n + cycles) : k.pulseArrives cycles = (k.markPulse cycles).unlock := by
  unfold Clock.pulseArrives
  rw [h]
  refine if_neg fun ⟨hmin, hmax⟩ => ?_
  unfold Config.pulseMin at hmin
  unfold Config.pulseMax at hmax
  omega

/-- R24: a pulse within the bounds is accepted. -/
theorem pulseArrives_accept {k : Clock} {n cycles : Nat} (h : k.pulse = some n) (hmin : 4055040 ≤ n + cycles)
    (hmax : n + cycles ≤ 4136960) : k.pulseArrives cycles = k.acceptPulse (n + cycles) cycles := by
  unfold Clock.pulseArrives
  rw [h]
  exact if_pos ⟨hmin, hmax⟩

/-- R27: a clock with k at 0 stays as it is. -/
theorem unlock_of_zero {k : Clock} (h : k.k = 0) : k.unlock = k := if_pos h

/-- R27, R31: a clock with another k is derived again under k 0, with the growth count 0. -/
theorem unlock_of_ne_zero {k : Clock} (h : k.k ≠ 0) :
    k.unlock = Clock.derive { k with k := 0, growth := 0, growthDue := false } := if_neg h

/-- R27: what the fall of k to 0 leaves as it was. -/
theorem unlock_keeps (k : Clock) :
    k.unlock.k = 0 ∧ k.unlock.pulse = k.pulse ∧ k.unlock.unc = k.unc ∧ k.unlock.labelUnc = k.labelUnc ∧
    k.unlock.aligned = k.aligned ∧ k.unlock.trim = k.trim ∧ k.unlock.ms = k.ms ∧ k.unlock.sec = k.sec ∧
    k.unlock.absence = k.absence ∧ k.unlock.labelled = k.labelled := by
  unfold Clock.unlock
  split
  · next h => exact ⟨h, rfl, rfl, rfl, rfl, rfl, rfl, rfl, rfl, rfl⟩
  · exact ⟨rfl, rfl, rfl, rfl, rfl, rfl, rfl, rfl, rfl, rfl⟩

/-- R27, R31: the growth count and the clock state after the fall. -/
theorem unlock_derives {k : Clock} (h : k.k ≠ 0) :
    k.unlock.growth = 0 ∧ k.unlock.state = deriveClock k.labelled 0 k.lockedMark := by
  rw [unlock_of_ne_zero h]
  exact ⟨rfl, rfl⟩

/-- R24, R25: the absence count becomes 0 and counting restarts at an accepted pulse. -/
theorem acceptPulse_counts (interval cycles : Nat) (k : Clock) :
    (k.acceptPulse interval cycles).absence = 0 ∧ (k.acceptPulse interval cycles).pulse = some 0 := by
  unfold Clock.acceptPulse
  dsimp only
  (repeat' split) <;> exact ⟨rfl, rfl⟩

/-- R25: an accepted pulse of an unlabelled clock with no aligned set changes the trim and the counts alone. -/
theorem acceptPulse_unlabelled {k : Clock} (hl : k.labelled = false) (ha : k.aligned = none) (interval cycles : Nat) :
    k.acceptPulse interval cycles =
      { k.markPulse cycles with trim := trimUpdate k.trim interval, absence := 0 } := by
  unfold Clock.acceptPulse
  dsimp only
  split
  · next a h => exact absurd (ha.symm.trans h) nofun
  · exact if_neg fun h : k.labelled = true => Bool.false_ne_true (hl.symm.trans h)

/-! ## The statements -/

/-- Settles O10: T is `trimUpdate`, and an unlabelled clock takes nothing else from the pulse. -/
theorem acceptedPulseUpdatesTheTrim : Obligations.AcceptedPulseUpdatesTheTrim := by
  intro s u cycles n hu hpulse hmin hmax
  rw [exec_refpulse, ← hu, pulseArrives_accept hpulse hmin hmax]
  obtain ⟨habsence, hcount⟩ := acceptPulse_counts (n + cycles) cycles u.clock
  refine ⟨_, rfl, ?_, ?_, ?_, fun hl ha => ?_⟩
  · rw [setClock_clock, acceptPulse_trim]
    rfl
  · rw [setClock_clock, habsence]
  · rw [setClock_clock, hcount]
  · have heq := acceptPulse_unlabelled hl ha (n + cycles) cycles
    rw [setClock_quiet (by rw [heq]; rfl) (by rw [heq]; rfl) (by rw [heq]; rfl), heq]
    exact ⟨rfl, rfl, rfl, rfl, rfl, rfl⟩

/-- R24, R27, R29: a rejected pulse. -/
theorem rejected_pulse (u : State) (cycles : Nat) {t : State} (ht : t = u.setClock (u.clock.markPulse cycles).unlock) :
    t.clock.k = 0 ∧ t.clock.pulse = some 0 ∧ t.clock.unc = u.clock.unc ∧ t.clock.labelUnc = u.clock.labelUnc ∧
    t.clock.aligned = u.clock.aligned ∧ t.clock.trim = u.clock.trim ∧ t.clock.ms = u.clock.ms ∧
    t.clock.sec = u.clock.sec ∧ t.clock.absence = u.clock.absence ∧ t.clock.labelled = u.clock.labelled ∧
    (u.clock.k = 0 → t.clock.state = u.clock.state ∧ t.pillar = u.pillar) ∧
    (u.clock.k ≠ 0 → t.clock.growth = 0 ∧ t.clock.state = deriveClock u.clock.labelled 0 u.clock.lockedMark) ∧
    u.pillar.clockBrings u.clock t.clock t.pillar ∧ t.pillar.docks = u.pillar.docks ∧
    t.store = u.store ∧ t.link = u.link ∧ t.tcu = u.tcu ∧ t.rider = u.rider := by
  obtain ⟨hk, hpulse, hunc, hlab, hal, htrim, hms, hsec, habs, hl⟩ := unlock_keeps (u.clock.markPulse cycles)
  obtain ⟨hbrings, -, -⟩ := setClock_brings u (u.clock.markPulse cycles).unlock
  subst ht
  rw [setClock_clock]
  refine ⟨hk, hpulse, hunc, hlab, hal, htrim, hms, hsec, habs, hl, fun h0 => ?_, fun h => ?_, hbrings,
    setClock_docks hsec, setClock_store .., setClock_link .., setClock_tcu_of_label hl, setClock_rider ..⟩
  · rw [unlock_of_zero (k := u.clock.markPulse cycles) h0,
      setClock_quiet (s := u) (k := u.clock.markPulse cycles) rfl rfl rfl]
    exact ⟨rfl, rfl⟩
  · exact unlock_derives (k := u.clock.markPulse cycles) h

/-- R27, R29: the absence count has reached its limit. -/
theorem absence_expiry (s : State) (hk : s.clock.k ≠ 0) (habs : 3000 ≤ s.clock.absence) :
    exec .absenceExpiry s = .next (s.setClock s.clock.unlock) :=
  congrArg Host.Outcome.next (if_pos (by simp [Clock.absenceDue, hk, Config.absenceMax, habs]))

/-- R34: a pending aligned set expires, and is applied as an IMMEDIATE set. -/
theorem aligned_expiry (s : State) {a : AlignedSet} (ha : s.clock.aligned = some a) (he : 2000 ≤ a.expiry) :
    exec .alignedSetExpiry s =
      .next (s.setClock (s.clock.setImmediate s.store.work.setUncertainty a.seconds a.forcedBack)) := by
  have due : s.clock.alignedDue = true := by simp [Clock.alignedDue, ha, Config.alignedExpiry, he]
  have expire : s.clock.alignedExpire s.store.work.setUncertainty =
      s.clock.setImmediate s.store.work.setUncertainty a.seconds a.forcedBack := by
    unfold Clock.alignedExpire
    rw [ha]
  rw [← expire]
  exact congrArg Host.Outcome.next (if_pos due)

/-- Settles O9: a pulse that starts counting or is rejected, and the three events of the clock, each a change of the clock
that brings what `setClock_brings` says. -/
theorem clockEventsAndRejectedPulses : Obligations.ClockEventsAndRejectedPulses := by
  refine ⟨fun s u cycles hu => ?_, fun s hk habs => ?_, fun s h => ?_, fun s a ha he => ?_⟩
  · rw [exec_refpulse, ← hu]
    refine ⟨fun hnone => ?_, fun n hn hbounds => ⟨_, rfl, ?_⟩⟩
    · rw [pulseArrives_start hnone]
      exact congrArg Host.Outcome.next (setClock_quiet rfl rfl rfl)
    · exact rejected_pulse u cycles (by rw [pulseArrives_reject hn hbounds])
  · obtain ⟨hk0, -, hunc, -, hal, htrim, hms, hsec, habsence, -⟩ := unlock_keeps s.clock
    obtain ⟨hgrowth, hstate⟩ := unlock_derives hk
    obtain ⟨hbrings, -, -⟩ := setClock_brings s s.clock.unlock
    refine ⟨_, absence_expiry s hk habs, ?_⟩
    rw [setClock_clock]
    exact ⟨hk0, hgrowth, hstate, hunc, hsec, hms, htrim, habsence, hal, hbrings, setClock_docks hsec⟩
  · exact congrArg Host.Outcome.next (if_pos h)
  · obtain ⟨hbrings, -, hdocks⟩ :=
      setClock_brings s (s.clock.setImmediate s.store.work.setUncertainty a.seconds a.forcedBack)
    refine ⟨_, aligned_expiry s ha he, ?_⟩
    rw [setClock_clock, setClock_link, setClock_tcu]
    exact ⟨rfl, rfl, rfl, rfl, rfl, rfl, rfl, rfl, rfl, rfl, restartMark_of_labelled rfl _, hbrings, hdocks⟩

end Sys2Proof.Machine
end

