-- ==== Sys2Proof/Proofs/Reset.lean ====
section
/-!
PROOFS. The part as a board reset leaves it (R184 and the After reset rules), and the invariants there.
-/

namespace Sys2Proof.Machine

/-! ## The tables of the pillar after reset -/

section Tables

variable (cause : ResetCause) (fitted : BitVec 48) (ds : Vector Nat 48)

/-- R61: a dock after reset. -/
theorem boot_dock (d : DockNo) :
    (Pillar.boot cause fitted ds).dock d = .fresh (if fitted.getLsbD d.val then .silent else .unfitted) :=
  tabulate_getElem ..

/-- R132, R152: a head after reset. -/
theorem boot_head (d : DockNo) :
    (Pillar.boot cause fitted ds).head d =
      { confirmed := none, candidate := none, missed := 0, delay := ds[d], lastTraining := .none, stray := false } :=
  tabulate_getElem ..

/-- R120: a filter record after reset. -/
theorem boot_filter (d : DockNo) : (Pillar.boot cause fitted ds).filter d = .fresh := Vector.getElem_replicate ..

/-- R89: no grant is active after reset. -/
theorem boot_grant (i : Fin 8) : (Pillar.boot cause fitted ds).grant i = none := Vector.getElem_replicate ..

/-- R144, R152: a rail after reset. -/
theorem boot_rail (r : RailId) : (Pillar.boot cause fitted ds).rail r = .fresh := by cases r <;> rfl

end Tables

/-- R184: the check word of the image decides what is loaded. -/
theorem good_iff (i : Image) : i.good = true ↔ i.check = i.computed := beq_iff_eq

theorem factory_fitted (d : DockNo) : Settings.factory.fitted.getLsbD d.val = true := by
  revert d
  decide

/-- Settles O2, block by block. -/
theorem boardResetStartsThePart : Obligations.BoardResetStartsThePart := by
  intro s cause
  refine ⟨_, rfl, rfl, rfl, rfl, rfl, rfl, fun h => ?_, fun h => ?_, ?_⟩
  · rw [(good_iff _).mpr h]
    exact ⟨rfl, rfl, rfl, rfl, rfl, fun d => congrArg Head.delay (boot_head ..), rfl⟩
  · rw [Bool.eq_false_iff.mpr (mt (good_iff _).mp h)]
    refine ⟨rfl, rfl, rfl, rfl, fun d => ⟨factory_fitted d, ?_⟩, rfl⟩
    exact (congrArg Head.delay (boot_head ..)).trans (Vector.getElem_replicate ..)
  · refine ⟨rfl, rfl, rfl, rfl, rfl, rfl, rfl, rfl, rfl, rfl, rfl, rfl, rfl, rfl, rfl, rfl, rfl, rfl, rfl, rfl, rfl,
      rfl, rfl, rfl, rfl, rfl, rfl, rfl, rfl, rfl, rfl, rfl, rfl, rfl, rfl, rfl, rfl, rfl, fun i => boot_grant .., ?_⟩
    refine ⟨fun d => ?_, fun r => ?_⟩
    · unfold State.boot
      dsimp only
      rw [boot_dock, boot_head, boot_filter]
      exact ⟨rfl, rfl, rfl, rfl, rfl, rfl, rfl, rfl, rfl, rfl, rfl, rfl, rfl, rfl, rfl, rfl, rfl, rfl⟩
    · unfold State.boot
      dsimp only
      rw [boot_rail]
      exact ⟨rfl, rfl, rfl, rfl, rfl, rfl, rfl, rfl, rfl, rfl, rfl, rfl, rfl⟩

/-! ## The invariants -/

theorem reset_settingsOk : State.reset.settingsOk := by
  have delays : ∀ d : DockNo, (Vector.replicate 48 factoryDelay)[d] ≤ 31 := fun d =>
    (Vector.getElem_replicate ..).trans_le factoryDelay_le
  refine ⟨factory_settings_ok, fun d => ?_, trimNominal_ok, ⟨factory_settings_ok, delays, trimNominal_ok⟩, nofun⟩
  exact (congrArg Head.delay (boot_head ..)).trans_le (delays d)

theorem boot_grantsOk (cause : ResetCause) (fitted : BitVec 48) (ds : Vector Nat 48) :
    (Pillar.boot cause fitted ds).grantsOk := by
  unfold Pillar.grantsOk
  simp only [boot_grant]
  refine ⟨Nat.zero_le _, ?_, ?_, ?_⟩
  · rintro _ _ ⟨⟩
  · rintro _ _ _ _ ⟨⟩
  · rintro _ _ _ _ _ _ ⟨⟩

/-- R61: no dock holds anything after reset, and a dock outside the fitted set is UNFITTED. -/
theorem boot_linksOk (cause : ResetCause) (fitted : BitVec 48) (ds : Vector Nat 48) :
    (Pillar.boot cause fitted ds).linksOk := by
  unfold Pillar.linksOk
  simp only [boot_grant, boot_dock]
  have notHeld : ∀ b : Bool, ¬ ((if b then DockState.silent else .unfitted) = .releasing ∨
      (if b then DockState.silent else .unfitted) = .open) := by decide
  refine ⟨?_, ?_, fun d h => ?_, ?_, ?_, ?_, ?_, fun d h => if_neg (Bool.eq_false_iff.mp h)⟩
  · rintro _ _ ⟨⟩
  · rintro _ _ ⟨⟩
  · exact absurd h (notHeld _)
  · rintro _ ⟨⟩
  · rintro _ _ _ _ _ _ ⟨⟩
  · rintro _ ⟨⟩
  · rintro _ ⟨⟩

theorem boot_orderOk (cause : ResetCause) (fitted : BitVec 48) (ds : Vector Nat 48) :
    (Pillar.boot cause fitted ds).orderOk := by
  unfold Pillar.orderOk
  simp only [boot_dock]
  exact ⟨List.nodup_nil, fun _ => ⟨nofun, nofun⟩, fun _ => ⟨fun _ => rfl, fun _ _ => rfl, nofun⟩⟩

/-- Settles O48. -/
theorem invariantsHoldAtReset : Obligations.InvariantsHoldAtReset := by
  have denyOk : State.reset.tcu.denyOk := ⟨.nil, by decide, nofun⟩
  have spentOk : State.reset.pillar.spentOk := ⟨.nil, by decide, .nil⟩
  have roomOk : State.reset.pillar.roomOk := by
    unfold Pillar.roomOk
    decide
  exact ⟨⟨rfl, rfl⟩, rfl, roomOk, reset_settingsOk, Clock.boot_ok _, denyOk, spentOk, boot_grantsOk .., boot_linksOk ..,
    boot_orderOk ..⟩

end Sys2Proof.Machine
end

