-- ==== Sys2Proof/Proofs/StoreAndRestore.lean ====
section
/-!
PROOFS. STORE_SETTINGS, STORE_COMPLETE and RESTORE_FACTORY (R39, R117, R182, R183, R189).
-/

namespace Sys2Proof.Machine

/-- The check word of an image is no part of what it is computed over (R189). -/
theorem computed_with_check (i : Image) (w : Word) : Image.computed { i with check := w } = i.computed := rfl

theorem good_with_computed (i : Image) : Image.good { i with check := i.computed } = true :=
  (good_iff _).mpr (computed_with_check i _).symm

theorem inverse_ne (x : Word) : ~~~ x ≠ x := fun h => by
  have bit := congrArg (fun w : Word => w.getLsbD 0) h
  simp at bit

/-- R182: no word is its own inverse, so that the image of a store in progress is not good. -/
theorem not_good_with_inverse (i : Image) : Image.good { i with check := ~~~ i.computed } = false := by
  rw [Bool.eq_false_iff, Ne, good_iff, computed_with_check]
  exact inverse_ne i.computed

theorem adjustFilters_filter (w : Settings) (p : Pillar) (d : DockNo) :
    (p.adjustFilters w).filter d = (p.filter d).adjust w := mapTable_getElem ..

/-- Settles O29. -/
theorem storeAndRestoreActOnTheSettings : Obligations.StoreAndRestoreActOnTheSettings := by
  refine ⟨fun s u hu hp hb => ?_, fun s u run hu hrun => ?_, fun s u hu hp hc hb => ?_⟩
  · rw [exec_row (c := .storeSettings) rfl fun _ _ => nofun, ← hu]
    clear hu
    set v : State := { u with link := u.link.take .storeSettings }
    have store := takeRequest_serves (r := .storeSettings) hp (.inl rfl) (applyStore_idle (s := v) hb) rfl
    exact ⟨_, { captured := v.capture, ticks := 0 }, congrArg Host.Outcome.next store, rfl, rfl, rfl, rfl, rfl,
      capture_delays v, rfl, rfl, rfl, good_with_computed _, not_good_with_inverse _, rfl, rfl, rfl, rfl⟩
  · rw [show exec .storeComplete s = .next s.settle.completeStore from rfl, ← hu, completeStore_running hrun]
  · rw [exec_row (c := .restoreFactory) rfl fun _ _ => nofun, ← hu]
    clear hu
    set v : State := { u with link := u.link.take .restoreFactory }
    have restore := takeRequest_serves (r := .restoreFactory) hp (.inr hc) (applyRestore_idle (s := v) hb) rfl
    refine ⟨_, congrArg Host.Outcome.next restore, rfl, rfl, rfl, rfl, rfl, rfl, rfl, fun d => ?_, fun d => ?_, rfl, rfl,
      rfl, fun d f hf => ?_⟩
    · exact (congrArg Head.delay (factoryHeads_head u.pillar d)).trans rfl
    · exact (congrArg Head.confirmed (factoryHeads_head u.pillar d)).trans rfl
    · subst hf
      have adjusted := adjustFilters_filter .factory u.pillar.factoryHeads d
      exact ⟨fun h => adjusted.trans (if_neg (Bool.eq_false_iff.mp h)), fun h => adjusted.trans (if_pos h)⟩

end Sys2Proof.Machine
end

