-- ==== Sys2Proof/Proofs/Refusals.lean ====
section
/-!
PROOFS. The refusals of the requests that name a setting, a rail, a count, a time or nothing (R32, R116, R152, R178, R181
to R186): what each operand test answers, and then one use of `takeRequest_answers` for each.
-/

namespace Sys2Proof.Machine

/-! ## Operands -/

theorem dockOperand_eq_none {dock : Byte} (h : dock.toNat = 0 ∨ 48 < dock.toNat) : dockOperand dock = none :=
  dif_neg (by omega)

theorem dockOperand_isSome {dock : Byte} (h : 1 ≤ dock.toNat ∧ dock.toNat ≤ 48) : (dockOperand dock).isSome = true := by
  unfold dockOperand dockOf
  rw [dif_pos h]
  rfl

theorem settingOperand_eq_none {b : Byte} (h : b.toNat = 0 ∨ 19 < b.toNat) : settingOperand b = none := by
  unfold settingOperand
  split <;> first | rfl | omega

theorem settingOperand_of_range {b : Byte} (h1 : 1 ≤ b.toNat) (h19 : b.toNat ≤ 19) :
    ∃ name, settingOperand b = some name := by
  unfold settingOperand
  generalize b.toNat = n at *
  interval_cases n <;> exact ⟨_, rfl⟩

theorem settingOperand_sampleDelay {b : Byte} (h : settingOperand b = some .sampleDelay) : b = 3#8 := by
  unfold settingOperand at h
  split at h <;> cases h
  next hb => exact BitVec.eq_of_toNat_eq hb

/-- R181: the settings numbered 1 to 3 are those taken in service state alone. -/
theorem settingOperand_inServiceOnly {b : Byte} {name : SettingName} (h : settingOperand b = some name)
    (h3 : b.toNat ≤ 3) : name.inServiceOnly = true := by
  unfold settingOperand at h
  generalize b.toNat = n at *
  interval_cases n <;> cases h <;> rfl

/-- R181 test 1: the requests of a setting that are refused BAD_VALUE. -/
theorem settingOf_eq_none {setting dock : Byte}
    (h : setting.toNat = 0 ∨ 19 < setting.toNat ∨ (setting = 3#8 ∧ (dock.toNat = 0 ∨ 48 < dock.toNat))) :
    settingOf setting dock = none := by
  unfold settingOf
  rcases h with h | h | ⟨rfl, hd⟩
  · rw [settingOperand_eq_none (.inl h)]
  · rw [settingOperand_eq_none (.inr h)]
  · rw [dockOperand_eq_none hd]
    rfl

/-- R181 test 1: the requests of a setting that pass it. -/
theorem settingOf_of_operand {setting dock : Byte} {name : SettingName} (h : settingOperand setting = some name)
    (hd : setting = 3#8 → 1 ≤ dock.toNat ∧ dock.toNat ≤ 48) : settingOf setting dock = some name := by
  unfold settingOf
  rw [h]
  refine if_neg fun ⟨hname, hnone⟩ => ?_
  subst hname
  have hsome := dockOperand_isSome (hd (settingOperand_sampleDelay h))
  rw [Option.isNone_iff_eq_none.mp hnone] at hsome
  cases hsome

/-! ## SETTING_WRITE (R181) -/

section SettingWrite

variable {s : State} {setting dock : Byte} {name : SettingName}

theorem applySettingWrite_none (h : settingOf setting dock = none) (value : BitVec 48) :
    s.applySettingWrite setting dock value = (s, .refuse .badValue) := by
  unfold State.applySettingWrite
  rw [h]

theorem applySettingWrite_busy (h : settingOf setting dock = some name) (hb : s.store.busy = true) (value : BitVec 48) :
    s.applySettingWrite setting dock value = (s, .refuse .busy) := by
  unfold State.applySettingWrite
  rw [h]
  exact if_pos hb

theorem applySettingWrite_badState (h : settingOf setting dock = some name) (hb : s.store.busy = false)
    (hname : name.inServiceOnly = true) (hs : s.store.inService = false) (value : BitVec 48) :
    s.applySettingWrite setting dock value = (s, .refuse .badState) := by
  unfold State.applySettingWrite
  rw [h, hb]
  dsimp only
  rw [if_neg Bool.false_ne_true]
  exact if_pos ⟨hname, by rw [hs]; rfl⟩

theorem applySettingWrite_thresholds (h : settingOf setting dock = some name) (hb : s.store.busy = false)
    (hfree : name.inServiceOnly = false) (hname : name.constrained = true) {value : BitVec 48}
    (hw : (s.store.work.write name (clamp name.range value.toNat)).thresholdsOk = false) :
    s.applySettingWrite setting dock value = (s, .refuse .badValue) := by
  unfold State.applySettingWrite
  rw [h, hb]
  dsimp only
  rw [if_neg Bool.false_ne_true, if_neg (by simp [hfree])]
  exact if_pos ⟨hname, by rw [hw]; rfl⟩

end SettingWrite

/-- R116: the settings whose write is tested may be written outside service state. -/
theorem constrained_settings {name : SettingName}
    (h : name = .bikeThreshold ∨ name = .hysteresis ∨ name = .noiseThreshold) :
    name.inServiceOnly = false ∧ name.constrained = true := by
  rcases h with rfl | rfl | rfl <;> exact ⟨rfl, rfl⟩

/-- R116, R171, R181: the refusals of SETTING_WRITE and SETTING_READ. -/
theorem setting_refusals (s u : State) (setting dock : Byte) (value : BitVec 48) (hu : u = s.settle)
    (hp : u.link.port ≠ .working) :
    (setting.toNat = 0 ∨ 19 < setting.toNat ∨ (setting = 3#8 ∧ (dock.toNat = 0 ∨ 48 < dock.toNat)) →
      exec (.settingWrite setting dock value) s = .next (u.served (.refuse .badValue)) ∧
      exec (.settingRead setting dock) s = .next (u.served (.refuse .badValue))) ∧
    (1 ≤ setting.toNat → setting.toNat ≤ 19 → (setting = 3#8 → 1 ≤ dock.toNat ∧ dock.toNat ≤ 48) →
      (u.store.busy = true →
        exec (.settingWrite setting dock value) s = .next (u.served (.refuse .busy))) ∧
      (u.store.busy = false → setting.toNat ≤ 3 → u.store.inService = false →
        exec (.settingWrite setting dock value) s = .next (u.served (.refuse .badState))) ∧
      (∀ name w, u.store.busy = false → settingOperand setting = some name →
        (name = .bikeThreshold ∨ name = .hysteresis ∨ name = .noiseThreshold) →
        w = u.store.work.write name (max name.range.1 (min name.range.2 value.toNat)) →
        ¬ w.noiseThreshold + w.hysteresis + 5 < w.bikeThreshold →
        exec (.settingWrite setting dock value) s = .next (u.served (.refuse .badValue)))) := by
  rw [exec_row (c := .settingWrite setting dock value) rfl fun _ _ => nofun,
    exec_row (c := .settingRead setting dock) rfl fun _ _ => nofun, ← hu]
  have write : ∀ {resp}, (∀ l : LinkPort, State.applySettingWrite setting dock value { u with link := l } =
      ({ u with link := l }, resp)) →
      (Host.Outcome.next (u.takeRequest (.settingWrite setting dock value)) : Host.Outcome State Fault Refusal) =
        .next (u.served resp) :=
    fun h => congrArg Host.Outcome.next (takeRequest_answers hp (.inl rfl) h)
  refine ⟨fun h => ⟨write fun _ => applySettingWrite_none (settingOf_eq_none h) value, ?_⟩, fun h1 h19 hd => ?_⟩
  · refine congrArg Host.Outcome.next (takeRequest_answers hp (.inl rfl) fun l => ?_)
    simp only [applyRequest, State.applySettingRead, settingOf_eq_none h]
  · obtain ⟨name, hname⟩ := settingOperand_of_range h1 h19
    have hset := settingOf_of_operand hname hd
    refine ⟨fun hb => ?_, fun hb h3 hs => ?_, ?_⟩
    · exact write fun l => applySettingWrite_busy (s := { u with link := l }) hset hb value
    · exact write fun l => applySettingWrite_badState (s := { u with link := l }) hset hb
        (settingOperand_inServiceOnly hname h3) hs value
    · rintro name' w hb hname' hcon rfl hw
      obtain ⟨hfree, htested⟩ := constrained_settings hcon
      exact write fun l => applySettingWrite_thresholds (s := { u with link := l }) (settingOf_of_operand hname' hd) hb
        hfree htested (decide_eq_false hw)

/-! ## The other requests -/

/-- R178: a count outside 1 to 8. -/
theorem applyReadRecords_badValue {s : State} {count : Byte} (h : count.toNat = 0 ∨ 8 < count.toNat) :
    s.applyReadRecords count = (s, .refuse .badValue) :=
  if_neg (by omega)

/-- R32: a force operand that is neither 0 nor 1. -/
theorem applySetTime_badValue {s : State} {seconds : Word} {mode force : Byte} (h0 : force ≠ 0#8) (h1 : force ≠ 1#8) :
    s.applySetTime seconds mode force = (s, .refuse .badValue) :=
  if_pos (.inr ⟨h0, h1⟩)

/-- R152: a rail that is neither A nor B. -/
theorem applyRailTrain_badValue {s : State} {rail : Byte} (h1 : rail ≠ 1#8) (h2 : rail ≠ 2#8) :
    s.applyRailTrain rail = (s, .refuse .badValue) := by
  unfold State.applyRailTrain railOperand
  rw [if_neg h1, if_neg h2]

/-- R152: outside service state, or while the rail trains. -/
theorem applyRailTrain_badState {s : State} {rail : Byte} {r : RailId} (hr : railOperand rail = some r)
    (h : s.store.inService = false ∨ (s.pillar.rail r).training.isSome = true) :
    s.applyRailTrain rail = (s, .refuse .badState) := by
  unfold State.applyRailTrain
  rw [hr]
  exact if_pos (h.imp_left fun h => by rw [h]; rfl)

/-- R62: with an active grant in a slot, the number of active grants is not 0. -/
theorem active_pos {p : Pillar} {i : Fin 8} {g : Grant} (h : p.grant i = some g) : 0 < p.active :=
  List.countP_pos_iff.mpr ⟨some g, h ▸ Vector.mem_toList_iff.mpr (Vector.getElem_mem i.isLt), rfl⟩

/-- R185: with an active grant. -/
theorem applyServiceEnter_badState {s : State} (hs : s.store.inService = false) {i : Fin 8} {g : Grant}
    (h : s.pillar.grant i = some g) : s.applyServiceEnter = (s, .refuse .badState) := by
  unfold State.applyServiceEnter
  rw [hs, if_neg Bool.false_ne_true, if_pos (active_pos h)]

/-- R186 test 3: a grant on a dock that the fitted set leaves out. -/
theorem grantOutside_of_grant {p : Pillar} {new : BitVec 48} {i : Fin 8} {g : Grant} (h : p.grant i = some g)
    (hg : new.getLsbD g.dock.val = false) : p.grantOutside new = true :=
  List.any_eq_true.mpr
    ⟨some g, h ▸ Vector.mem_toList_iff.mpr (Vector.getElem_mem i.isLt), congrArg Bool.not hg⟩

/-- R186: outside service state, while a rail trains, or with a grant on a dock that FITTED leaves out. -/
theorem applyServiceLeave_badState {s : State}
    (h : s.store.inService = false ∨ s.pillar.railA.training.isSome = true ∨ s.pillar.railB.training.isSome = true ∨
      (∃ i g, s.pillar.grant i = some g ∧ s.store.work.fitted.getLsbD g.dock.val = false)) :
    s.applyServiceLeave = (s, .refuse .badState) := by
  unfold State.applyServiceLeave
  split
  · rfl
  split
  · rfl
  · next hs ht =>
    rcases h with h | h | h | ⟨i, g, hg, hd⟩
    · exact absurd (by rw [h]; rfl) hs
    · exact absurd (.inl h) ht
    · exact absurd (.inr h) ht
    · exact if_pos (grantOutside_of_grant hg hd)

/-- Settles O32. -/
theorem settingsAndServiceRequestsAreRefused : Obligations.SettingsAndServiceRequestsAreRefused := by
  refine ⟨fun s u setting dock value hu hp => setting_refusals s u setting dock value hu hp, fun s u hu hp => ?_⟩
  have row : ∀ {c : Instr} {r : Request} {resp : Response}, commandRequest c = some r →
      (∀ count ids, c ≠ .denyAdd count ids) → (heldKind r = false ∨ u.tcu.check = none) →
      (∀ l : LinkPort, applyRequest r { u with link := l } = ({ u with link := l }, resp)) →
      exec c s = .next (u.served resp) := fun hc hd hk h => by
    rw [exec_row hc hd, ← hu, takeRequest_answers hp hk h]
  refine ⟨fun count h => ?_, fun seconds force hc h0 h1 => ⟨?_, ?_⟩, fun rail h1 h2 => ?_, fun rail r hr h => ?_,
    fun hb => ⟨?_, fun hc => ?_⟩, fun hs => ?_, fun hs ⟨i, g, hg⟩ => ?_, fun h => ?_⟩
  · exact row rfl (fun _ _ => nofun) (.inl rfl) fun _ => applyReadRecords_badValue h
  · exact row rfl (fun _ _ => nofun) (.inr hc) fun _ => applySetTime_badValue h0 h1
  · exact row rfl (fun _ _ => nofun) (.inr hc) fun _ => applySetTime_badValue h0 h1
  · exact row rfl (fun _ _ => nofun) (.inl rfl) fun _ => applyRailTrain_badValue h1 h2
  · exact row rfl (fun _ _ => nofun) (.inl rfl) fun _ => applyRailTrain_badState hr h
  · exact row rfl (fun _ _ => nofun) (.inl rfl) fun _ => if_pos hb
  · exact row rfl (fun _ _ => nofun) (.inr hc) fun _ => if_pos hb
  · exact row rfl (fun _ _ => nofun) (.inl rfl) fun _ => if_pos hs
  · exact row rfl (fun _ _ => nofun) (.inl rfl) fun _ => applyServiceEnter_badState hs hg
  · exact row rfl (fun _ _ => nofun) (.inl rfl) fun _ => applyServiceLeave_badState h

end Sys2Proof.Machine
end

