-- ==== Sys2Proof/Proofs/OffRails.lean ====
section
/-!
PROOFS. What the rails, the heads and the Presence Filter do among themselves (spec/06 to spec/08): these operations leave
the docks, the grants, the records, the spent list and the output side as they are. Said once, as an equation for each,
over the pillar with the rails, the heads and the filter records forgotten.
-/

namespace Sys2Proof.Machine

/-- The pillar but for the rails, the heads and the filter records. Two pillars that agree here agree on the docks, the Dock
Order List, the grants, the spent list, the output side and the Record Queue. -/
def Pillar.offRails (p : Pillar) : Pillar :=
  { p with
    heads := Vector.replicate 48
      { confirmed := none, candidate := none, missed := 0, delay := 0, lastTraining := .none, stray := false }
    filters := Vector.replicate 48 .fresh
    railA := .fresh
    railB := .fresh }

/-- What two pillars share that differ in their rails, heads and filter records alone. -/
theorem tables_of_offRails {p q : Pillar} (h : q.offRails = p.offRails) :
    q.docks = p.docks ∧ q.order = p.order ∧ q.grants = p.grants ∧ q.records = p.records ∧ q.spent = p.spent ∧
    q.out = p.out ∧ q.tx = p.tx := by
  have field : ∀ {α : Type} (f : Pillar → α), f q.offRails = f p.offRails := fun f => congrArg f h
  exact ⟨field Pillar.docks, field Pillar.order, field Pillar.grants, field Pillar.records, field Pillar.spent,
    field Pillar.out, field Pillar.tx⟩

/-! ## Writes, and the source queues -/

@[simp] theorem setHead_offRails (p : Pillar) (d : DockNo) (x : Head) : (p.setHead d x).offRails = p.offRails := rfl
@[simp] theorem setFilter_offRails (p : Pillar) (d : DockNo) (x : Filter) :
    (p.setFilter d x).offRails = p.offRails := rfl
@[simp] theorem modHead_offRails (p : Pillar) (d : DockNo) (f : Head → Head) : (p.modHead d f).offRails = p.offRails :=
  rfl
@[simp] theorem modFilter_offRails (p : Pillar) (d : DockNo) (f : Filter → Filter) :
    (p.modFilter d f).offRails = p.offRails := rfl
@[simp] theorem modRail_offRails (p : Pillar) (r : RailId) (f : Rail → Rail) : (p.modRail r f).offRails = p.offRails := by
  cases r <;> rfl
@[simp] theorem join_offRails (s : Source) (m : Msg) (p : Pillar) : (p.join s m).offRails = p.offRails :=
  modRail_offRails ..
@[simp] theorem placeAgain_offRails (s : Source) (m : Msg) (p : Pillar) : (p.placeAgain s m).offRails = p.offRails :=
  modRail_offRails ..
@[simp] theorem drop_offRails (d : DockNo) (test : Cmd → Bool) (p : Pillar) : (p.drop d test).offRails = p.offRails :=
  modRail_offRails ..

/-- R57: the lamps queue messages and change nothing else. -/
@[simp] theorem relamp_offRails (before p : Pillar) : (before.relamp p).offRails = p.offRails := by
  obtain ⟨a, b, h⟩ := relamp_frame before p
  rw [h]
  rfl

/-! ## The Presence Filter, the frames and the channel -/

@[simp] theorem uninitFilter_offRails (d : DockNo) (p : Pillar) : (p.uninitFilter d).offRails = p.offRails := rfl
@[simp] theorem rise_offRails (d : DockNo) (p : Pillar) : (p.rise d).offRails = p.offRails := rfl
@[simp] theorem lowReset_offRails (d : DockNo) (p : Pillar) : (p.lowReset d).offRails = p.offRails := rfl
@[simp] theorem adjustFilters_offRails (w : Settings) (p : Pillar) : (p.adjustFilters w).offRails = p.offRails := rfl
@[simp] theorem feedFilter_offRails (c : Ctx) (r : RailId) (d : DockNo) (before : Option Code) (code : Code) (raw : Nat)
    (p : Pillar) : (p.feedFilter c r d before code raw).offRails = p.offRails := by
  unfold Pillar.feedFilter; dsimp only; (repeat' split) <;> simp
@[simp] theorem ordinaryScan_offRails (c : Ctx) (r : RailId) (d : DockNo) (u : Upstream) (p : Pillar) :
    (p.ordinaryScan c r d u).offRails = p.offRails := by
  unfold Pillar.ordinaryScan; dsimp only; (repeat' split) <;> simp
@[simp] theorem sweepScan_offRails (c : Ctx) (r : RailId) (d : DockNo) (t : Training) (u : Upstream) (p : Pillar) :
    (p.sweepScan c r d t u).offRails = p.offRails := by
  unfold Pillar.sweepScan; dsimp only; split <;> simp
@[simp] theorem scanEnd_offRails (c : Ctx) (r : RailId) (u : Upstream) (p : Pillar) :
    (p.scanEnd c r u).offRails = p.offRails := by
  unfold Pillar.scanEnd; (repeat' split) <;> simp
@[simp] theorem frameEnd_offRails (c : Ctx) (r : RailId) (early : Bool) (u : Upstream) (p : Pillar) :
    (p.frameEnd c r early u).offRails = p.offRails := by
  simp [Pillar.frameEnd]
@[simp] theorem schedule_offRails (r : RailId) (p : Pillar) : (p.schedule r).offRails = p.offRails := by
  obtain ⟨pointer, pair, scan, h⟩ := schedule_cases r p
  rw [h, Pillar.beginFrame, modRail_offRails]
  exact modRail_offRails p r (fun x => { x with pointer := pointer, pair := pair, scan := scan })
@[simp] theorem chanTimeout_offRails (r : RailId) (p : Pillar) : (p.chanTimeout r).offRails = p.offRails :=
  modRail_offRails ..
@[simp] theorem closingTimeout_offRails (r : RailId) (p : Pillar) : (p.closingTimeout r).offRails = p.offRails :=
  modRail_offRails ..
@[simp] theorem chanAbort_offRails (r : RailId) (p : Pillar) : (p.chanAbort r).offRails = p.offRails :=
  modRail_offRails ..
@[simp] theorem restore_offRails (r : RailId) (p : Pillar) : (p.restore r).offRails = p.offRails := modRail_offRails ..
@[simp] theorem takePresence_offRails (d : DockNo) (p : Pillar) : (p.takePresence d).offRails = p.offRails :=
  modRail_offRails ..
@[simp] theorem silentRail_offRails (d : DockNo) (p : Pillar) : (p.silentRail d).offRails = p.offRails := by
  simp [Pillar.silentRail]

/-! ## Timing training -/

@[simp] theorem placeStray_offRails (d : DockNo) (p : Pillar) : (p.placeStray d).offRails = p.offRails := by
  unfold Pillar.placeStray; split <;> simp
@[simp] theorem checkStray_offRails (d : DockNo) (p : Pillar) : (p.checkStray d).offRails = p.offRails := by
  unfold Pillar.checkStray; split <;> simp
@[simp] theorem withdrawStray_offRails (d : DockNo) (p : Pillar) : (p.withdrawStray d).offRails = p.offRails := by
  unfold Pillar.withdrawStray; split <;> simp
@[simp] theorem strayOutcome_offRails (d : DockNo) (p : Pillar) : (p.strayOutcome d).offRails = p.offRails := by
  simp [Pillar.strayOutcome]
@[simp] theorem setTraining_offRails (r : RailId) (t : Option Training) (p : Pillar) :
    (p.setTraining r t).offRails = p.offRails := modRail_offRails ..
@[simp] theorem endHead_offRails (r : RailId) (d : DockNo) (result : TrainResult) (p : Pillar) :
    (p.endHead r d result).offRails = p.offRails := by
  simp [Pillar.endHead]
@[simp] theorem trainNext_offRails (r : RailId) (l : List DockNo) (p : Pillar) :
    (Pillar.trainNext r l p).offRails = p.offRails := by
  induction l generalizing p with
  | nil => simp [Pillar.trainNext]
  | cons d rest ih => unfold Pillar.trainNext; dsimp only; split <;> simp [ih]
@[simp] theorem trainRail_offRails (r : RailId) (p : Pillar) : (p.trainRail r).offRails = p.offRails :=
  trainNext_offRails ..
@[simp] theorem finishHead_offRails (r : RailId) (d : DockNo) (result : TrainResult) (p : Pillar) :
    (p.finishHead r d result).offRails = p.offRails := by
  simp [Pillar.finishHead]
@[simp] theorem trainOffStep_offRails (r : RailId) (t : Training) (result : TrainResult) (p : Pillar) :
    (p.trainOffStep r t result).offRails = p.offRails := by
  simp [Pillar.trainOffStep]
@[simp] theorem trainAttemptFailed_offRails (r : RailId) (t : Training) (p : Pillar) :
    (p.trainAttemptFailed r t).offRails = p.offRails := by
  unfold Pillar.trainAttemptFailed; (repeat' split) <;> simp
@[simp] theorem trainConfirmed_offRails (r : RailId) (t : Training) (p : Pillar) :
    (p.trainConfirmed r t).offRails = p.offRails := by
  unfold Pillar.trainConfirmed; split <;> simp
@[simp] theorem trainOutcome_offRails (c : Ctx) (r : RailId) (m : Msg) (o : ChanOutcome) (p : Pillar) :
    (p.trainOutcome c r m o).offRails = p.offRails := by
  unfold Pillar.trainOutcome; (repeat' split) <;> simp
@[simp] theorem trainCode_offRails (d : DockNo) (p : Pillar) : (p.trainCode d).offRails = p.offRails := by
  unfold Pillar.trainCode; (repeat' split) <;> simp
@[simp] theorem trainSilent_offRails (d : DockNo) (p : Pillar) : (p.trainSilent d).offRails = p.offRails := by
  unfold Pillar.trainSilent; split <;> simp
@[simp] theorem trainExpire_offRails (r : RailId) (p : Pillar) : (p.trainExpire r).offRails = p.offRails := by
  unfold Pillar.trainExpire; split <;> simp
@[simp] theorem endSweep_offRails (r : RailId) (p : Pillar) : (p.endSweep r).offRails = p.offRails := by
  unfold Pillar.endSweep; (repeat' split) <;> simp

end Sys2Proof.Machine
end

