-- ==== Sys2Proof/Proofs/GrantLedger.lean ====
section
/-!
PROOFS. What a step can do to the grants' identities, the grant id counter and the room (R63, R65, R68, R87, R177), said once:
every step is a chain of the entries `Entry` lists (`step_entries`). That the room is never exceeded and that grants keep
their identity then follow by one case for each kind of entry.
-/

namespace Sys2Proof.Machine

/-! ## The grant table -/

/-- The grant found by an id stands in its slot under that id. -/
theorem findGrant_some {p : Pillar} {id : Nat} {i : Fin 8} {g : Grant} (h : p.findGrant id = some (i, g)) :
    p.grant i = some g ∧ g.id = id := by
  obtain ⟨j, -, hj⟩ := List.exists_of_findSome?_eq_some h
  obtain ⟨x, hx, hid⟩ := Option.bind_eq_some_iff.mp hj
  split at hid
  · next he => cases hid; exact ⟨hx, he⟩
  · cases hid

/-- An id with no grant found is the id of no active grant. -/
theorem findGrant_none {p : Pillar} {id : Nat} (h : p.findGrant id = none) {i : Fin 8} {g : Grant}
    (hg : p.grant i = some g) : g.id ≠ id := by
  have slot := List.findSome?_eq_none_iff.mp h i (mem_allSlots i)
  rw [hg] at slot
  intro he
  simp [he] at slot

theorem grantOf_some {p : Pillar} {d : DockNo} {i : Fin 8} {g : Grant} (h : p.grantOf d = some (i, g)) :
    p.grant i = some g := by
  obtain ⟨id, -, hid⟩ := Option.bind_eq_some_iff.mp h
  exact (findGrant_some hid).1

theorem grantWithRef_some {p : Pillar} {ref : Byte} {i : Fin 8} {g : Grant} (h : p.grantWithRef ref = some (i, g)) :
    p.grant i = some g ∧ ∃ r, g.rider = some r ∧ r.ref = ref := by
  obtain ⟨j, -, hj⟩ := List.exists_of_findSome?_eq_some h
  obtain ⟨x, hx, href⟩ := Option.bind_eq_some_iff.mp hj
  split at href
  · next he =>
    cases href
    exact ⟨hx, by simpa [Option.any_eq_true] using he⟩
  · cases href

theorem freeSlot_some {p : Pillar} {i : Fin 8} (h : p.freeSlot = some i) : p.grant i = none := by
  simpa using List.find?_some h

/-- R62: a write to one slot changes the number of active grants by what stood and what now stands there. -/
theorem setGrant_active (p : Pillar) (i : Fin 8) (x : Option Grant) :
    (p.setGrant i x).active = p.active - (if (p.grant i).isSome then 1 else 0) + (if x.isSome then 1 else 0) := by
  unfold Pillar.active Pillar.setGrant
  rw [Vector.countP_toList, Vector.countP_set, Vector.countP_toList]
  rfl

/-- R62: with an active grant in a slot, the number of active grants is not 0. -/
theorem active_pos_of_isSome {p : Pillar} {i : Fin 8} (h : (p.grant i).isSome = true) : 1 ≤ p.active := by
  obtain ⟨g, hg⟩ := Option.isSome_iff_exists.mp h
  exact active_pos hg

/-! ## The search for a grant id (R63) -/

/-- The ids in the order in which the search of R63 meets them. -/
def idAfter (last n : Nat) : Nat := (min last 255 + n) % 255 + 1

theorem idAfter_range (last n : Nat) : 1 ≤ idAfter last n ∧ idAfter last n ≤ 255 := by
  unfold idAfter
  omega

/-- R63: the search stops at the first id that is not in use, or when its steps are spent. -/
theorem nextId_eq (inUse : Nat → Bool) (fuel last : Nat) :
    ∃ n, n ≤ fuel ∧ nextId inUse fuel last = idAfter last n ∧ (∀ m, m < n → inUse (idAfter last m) = true) ∧
      (n < fuel → inUse (idAfter last n) = false) := by
  have first : ∀ n, (if n ≥ 255 then 1 else n + 1) = idAfter n 0 := fun n => by unfold idAfter; split <;> omega
  have next : ∀ n, idAfter (idAfter last 0) n = idAfter last (n + 1) := fun n => by unfold idAfter; omega
  induction fuel generalizing last with
  | zero => exact ⟨0, le_rfl, first last, nofun, nofun⟩
  | succ fuel ih =>
    rw [nextId, first]
    split
    · next hused =>
      obtain ⟨n, hn, heq, hbefore, hfree⟩ := ih (idAfter last 0) (fun n => by unfold idAfter; omega)
      rw [next] at heq hfree
      refine ⟨n + 1, by omega, heq, fun m hm => ?_, fun h => hfree (by omega)⟩
      cases m with
      | zero => exact hused
      | succ m => rw [← next]; exact hbefore m (by omega)
    · next hfree => exact ⟨0, by omega, rfl, nofun, fun _ => Bool.eq_false_iff.mpr hfree⟩

/-- R63: at most 8 of any 9 ids in turn are in use. -/
theorem exists_free_id (p : Pillar) (last : Nat) : ∃ n, n ≤ 8 ∧ p.findGrant (idAfter last n) = none := by
  by_contra hall
  have used : ∀ n : Fin 9, ∃ (i : Fin 8) (g : Grant), p.grant i = some g ∧ g.id = idAfter last n.val := fun n => by
    cases h : p.findGrant (idAfter last n.val) with
    | none => exact absurd ⟨n.val, Nat.le_of_lt_succ n.isLt, h⟩ hall
    | some e => exact ⟨e.1, e.2, findGrant_some h⟩
  choose slot grant hslot hid using used
  obtain ⟨m, n, hne, hsame⟩ := Fintype.exists_ne_map_eq_of_card_lt slot (by simp)
  have same : grant m = grant n := Option.some.inj ((hslot m).symm.trans ((congrArg p.grant hsame).trans (hslot n)))
  have ids : idAfter last m.val = idAfter last n.val := by rw [← hid m, ← hid n, same]
  have values : m.val ≠ n.val := fun h => hne (Fin.ext h)
  unfold idAfter at ids
  omega

/-- R63: the id the next grant takes is the first in turn that no active grant carries. -/
theorem newId_eq (p : Pillar) :
    ∃ n, n ≤ 8 ∧ p.newId = idAfter p.lastGrant n ∧ p.findGrant p.newId = none ∧
      ∀ m, m < n → (p.findGrant (idAfter p.lastGrant m)).isSome = true := by
  obtain ⟨n, hn, heq, hbefore, hfree⟩ := nextId_eq (fun id => (p.findGrant id).isSome) 8 p.lastGrant
  refine ⟨n, hn, heq, ?_, hbefore⟩
  change p.newId = _ at heq
  rw [heq, ← Option.isNone_iff_eq_none, ← Option.not_isSome, Bool.not_eq_true']
  obtain ⟨k, hk, hnone⟩ := exists_free_id p p.lastGrant
  rcases Nat.lt_or_ge n 8 with hlt | hge
  · exact hfree hlt
  · rcases Nat.lt_or_ge k n with hkn | hkn
    · have hsome := hbefore k hkn
      simp [hnone] at hsome
    · rw [show n = k by omega, hnone]
      rfl

theorem newId_range (p : Pillar) : 1 ≤ p.newId ∧ p.newId ≤ 255 := by
  obtain ⟨n, -, heq, -⟩ := newId_eq p
  rw [heq]
  exact idAfter_range ..

/-- R63, in the terms of the statements. -/
theorem newId_assigns {p : Pillar} (h : p.lastGrant ≤ 255) : p.assigns p.newId := by
  obtain ⟨n, hn, heq, hfree, hbefore⟩ := newId_eq p
  simp only [idAfter, Nat.min_eq_left h] at heq hbefore
  exact ⟨n, hn, heq, hfree, hbefore⟩

/-! ## The ledger -/

/-- What a grant keeps from its creation to its end: its id, and what it has from its presentation. -/
def Grant.identity (g : Grant) : Nat × Option RiderPart := (g.id, g.rider)

/-- What R63, R65 and R68 speak of: the identity of the grant in each slot, the grant id counter, and the records with the
active grants, which share the room. -/
structure Ledger where
  holders : Fin 8 → Option (Nat × Option RiderPart)
  lastGrant : Nat
  occupancy : Nat

def Pillar.ledger (p : Pillar) : Ledger where
  holders := fun i => (p.grant i).map Grant.identity
  lastGrant := p.lastGrant
  occupancy := p.records.length + p.active

/-- R177: a lesser record is offered. -/
def Ledger.lesser (v : Ledger) : Ledger :=
  if v.occupancy < Config.roomMax then { v with occupancy := v.occupancy + 1 } else v

/-- R87: the grant in a slot ends; its record takes the place that it held. -/
def Ledger.free (i : Fin 8) (v : Ledger) : Ledger := { v with holders := Function.update v.holders i none }

/-- R63, R68: a grant is created in a slot. -/
def Ledger.take (i : Fin 8) (id : Nat) (rider : Option RiderPart) (v : Ledger) : Ledger where
  holders := Function.update v.holders i (some (id, rider))
  lastGrant := id
  occupancy := v.occupancy + 1

/-- R89, R184: the ledger after reset, with the START record. -/
def Ledger.boot : Ledger where
  holders := fun _ => none
  lastGrant := 0
  occupancy := 1

/-- One entry, by the rule that makes it. -/
inductive Entry (v : Ledger) : Ledger → Prop
  | lesser : Entry v v.lesser
  | free (i : Fin 8) : Entry v (v.free i)
  /-- R63, R65, R68, R20: a slot is free and there is room, the id is that of no active grant, and the account that of no
  active RIDER grant. -/
  | take (i : Fin 8) (id : Nat) (rider : Option RiderPart) (hslot : v.holders i = none)
      (hroom : v.occupancy < Config.roomMax) (hrange : 1 ≤ id ∧ id ≤ 255)
      (hid : ∀ j x, v.holders j = some x → x.1 ≠ id)
      (haccount : ∀ j x y, rider = some x → (v.holders j).bind Prod.snd = some y → y.account ≠ x.account) :
      Entry v (v.take i id rider)
  /-- R178: records leave the Record Queue. -/
  | read (n : Nat) (h : n ≤ v.occupancy) : Entry v { v with occupancy := n }
  | reset : Entry v .boot

/-- A chain of entries. -/
abbrev Entries : Ledger → Ledger → Prop := Relation.ReflTransGen Entry

@[simp] theorem entries_self (v : Ledger) : Entries v v := .refl
theorem entries_of_eq {v w : Ledger} (h : w = v) : Entries v w := h ▸ .refl
@[simp] theorem entries_lesser (v : Ledger) : Entries v v.lesser := .single .lesser
@[simp] theorem entries_free (i : Fin 8) (v : Ledger) : Entries v (v.free i) := .single (.free i)
@[simp] theorem entries_lesser_free (i : Fin 8) (v : Ledger) : Entries v (v.lesser.free i) :=
  (entries_lesser v).tail (.free i)

@[simp] theorem lesser_holders (v : Ledger) : v.lesser.holders = v.holders := by
  unfold Ledger.lesser; split <;> rfl

/-! ## Writes, queues and frames -/

theorem ledger_of_offRails {p q : Pillar} (h : q.offRails = p.offRails) : q.ledger = p.ledger :=
  (congrArg Pillar.ledger h : q.offRails.ledger = p.offRails.ledger)

@[simp] theorem setDock_ledger (p : Pillar) (d : DockNo) (x : Dock) : (p.setDock d x).ledger = p.ledger := rfl
@[simp] theorem modDock_ledger (p : Pillar) (d : DockNo) (f : Dock → Dock) : (p.modDock d f).ledger = p.ledger := rfl
@[simp] theorem modHead_ledger (p : Pillar) (d : DockNo) (f : Head → Head) : (p.modHead d f).ledger = p.ledger := rfl
@[simp] theorem uninitFilter_ledger (d : DockNo) (p : Pillar) : (p.uninitFilter d).ledger = p.ledger := rfl
@[simp] theorem modRail_ledger (p : Pillar) (r : RailId) (f : Rail → Rail) : (p.modRail r f).ledger = p.ledger :=
  ledger_of_offRails (modRail_offRails ..)
@[simp] theorem join_ledger (s : Source) (m : Msg) (p : Pillar) : (p.join s m).ledger = p.ledger := modRail_ledger ..
@[simp] theorem placeAgain_ledger (s : Source) (m : Msg) (p : Pillar) : (p.placeAgain s m).ledger = p.ledger :=
  modRail_ledger ..
@[simp] theorem drop_ledger (d : DockNo) (test : Cmd → Bool) (p : Pillar) : (p.drop d test).ledger = p.ledger :=
  modRail_ledger ..
@[simp] theorem send_ledger (f : OutFrame) (p : Pillar) : (p.send f).ledger = p.ledger := rfl
@[simp] theorem prune_ledger (k : Clock) (p : Pillar) : (p.prune k).ledger = p.ledger := rfl
@[simp] theorem transmit_ledger (c : Ctx) (p : Pillar) : (p.transmit c).ledger = p.ledger := by
  unfold Pillar.transmit; split <;> rfl
@[simp] theorem event_ledger (c : Ctx) (f : Pillar → Pillar) (p : Pillar) : (p.event c f).ledger = (f p).ledger := by
  rw [Pillar.event, transmit_ledger]
  exact ledger_of_offRails (relamp_offRails ..)

/-- A grant that keeps its identity is written back to its slot. -/
theorem setGrant_ledger {p q : Pillar} {i : Fin 8} {g x : Grant} (hq : q.ledger = p.ledger)
    (hg : p.ledger.holders i = some g.identity) (hx : x.identity = g.identity) :
    (q.setGrant i (some x)).ledger = p.ledger := by
  rw [← hx, ← hq] at hg
  have held : (q.grant i).isSome = true := by
    have hs := congrArg Option.isSome hg
    simpa [Pillar.ledger] using hs
  have active : (q.setGrant i (some x)).active = q.active := by
    have pos := active_pos_of_isSome held
    rw [setGrant_active, if_pos held]
    simp
    omega
  rw [← hq]
  unfold Pillar.ledger
  congr 1
  · funext j
    rw [setGrant_grant]
    split
    · next hij => rw [← hij]; exact hg.symm
    · rfl
  · rw [active]; rfl

@[simp] theorem lesser_ledger (c : Ctx) (body : RecordBody) (p : Pillar) :
    (p.lesser c body).ledger = p.ledger.lesser := by
  have room : p.room = decide (p.ledger.occupancy < Config.roomMax) := rfl
  rcases lesser_cases c body p with ⟨hr, h⟩ | ⟨hr, h⟩
  · rw [room, decide_eq_true_eq] at hr
    rw [h, Ledger.lesser, if_pos hr]
    unfold Pillar.ledger
    congr 1
    simp only [List.length_append, List.length_singleton]
    exact Nat.add_right_comm ..
  · rw [room, decide_eq_false_iff_not] at hr
    rw [h, Ledger.lesser, if_neg hr]
    rfl

theorem foldl_entries {α : Type} {f : Pillar → α → Pillar} (h : ∀ p x, Entries p.ledger (f p x).ledger) (l : List α)
    (p : Pillar) : Entries p.ledger (l.foldl f p).ledger := by
  induction l generalizing p with
  | nil => exact .refl
  | cons x xs ih => exact (h p x).trans (ih (f p x))

end Sys2Proof.Machine
end

