-- ==== Sys2Proof/Proofs/GrantEntries.lean ====
section
/-!
PROOFS. The entries that each operation of the pillar makes in the ledger of `Proofs/GrantLedger.lean`: an equation where an
operation makes the same ones always, and a chain where it depends on the state.
-/

namespace Sys2Proof.Machine

/-! ## The Dock Manager: lesser records alone -/

@[simp] theorem enterState_ledger (d : DockNo) (st : DockState) (p : Pillar) :
    (p.enterState d st).ledger = p.ledger := rfl
@[simp] theorem enterEmpty_ledger (c : Ctx) (d : DockNo) (p : Pillar) : (p.enterEmpty c d).ledger = p.ledger := by
  unfold Pillar.enterEmpty; dsimp only; split <;> rfl
@[simp] theorem clearBike_ledger (d : DockNo) (p : Pillar) : (p.clearBike d).ledger = p.ledger := rfl
@[simp] theorem addBike_ledger (d : DockNo) (tag : Option Tag) (p : Pillar) : (p.addBike d tag).ledger = p.ledger := rfl
@[simp] theorem endIdent_ledger (d : DockNo) (p : Pillar) : (p.endIdent d).ledger = p.ledger := by
  simp [Pillar.endIdent]
@[simp] theorem endRelock_ledger (d : DockNo) (p : Pillar) : (p.endRelock d).ledger = p.ledger := by
  simp [Pillar.endRelock]
@[simp] theorem startRelock_ledger (d : DockNo) (p : Pillar) : (p.startRelock d).ledger = p.ledger := by
  unfold Pillar.startRelock; split <;> simp
@[simp] theorem startIdent_ledger (d : DockNo) (p : Pillar) : (p.startIdent d).ledger = p.ledger := by
  simp [Pillar.startIdent]
@[simp] theorem faultDock_ledger (c : Ctx) (d : DockNo) (cause : FaultCause) (p : Pillar) :
    (p.faultDock c d cause).ledger = p.ledger.lesser := by
  simp [Pillar.faultDock]

/-- R97: a RETURN record that is not entered is owed by its dock. -/
@[simp] theorem makeReturn_ledger (c : Ctx) (d : DockNo) (tag : Option Tag) (p : Pillar) :
    (p.makeReturn c d tag).ledger = p.ledger.lesser := by
  rw [← lesser_ledger c (.ret d tag (!p.sensed d) (decide ((p.dock d).hold = some .service))) p]
  unfold Pillar.makeReturn Pillar.lesser
  dsimp only
  split <;> rfl
@[simp] theorem completeReturn_ledger (c : Ctx) (d : DockNo) (tag : Option Tag) (p : Pillar) :
    (p.completeReturn c d tag).ledger = p.ledger.lesser := by
  simp [Pillar.completeReturn]
@[simp] theorem recoverMismatch_ledger (c : Ctx) (d : DockNo) (tag : Option Tag) (p : Pillar) :
    (p.recoverMismatch c d tag).ledger = p.ledger.lesser := by
  unfold Pillar.recoverMismatch; dsimp only; split <;> simp
@[simp] theorem recoverMatch_ledger (c : Ctx) (d : DockNo) (tag : Tag) (p : Pillar) :
    (p.recoverMatch c d tag).ledger = p.ledger.lesser := by
  simp [Pillar.recoverMatch]
@[simp] theorem bikeMissing_ledger (c : Ctx) (d : DockNo) (p : Pillar) :
    (p.bikeMissing c d).ledger = p.ledger.lesser := by
  simp [Pillar.bikeMissing]
@[simp] theorem poorDockExpired_ledger (c : Ctx) (d : DockNo) (p : Pillar) :
    (p.poorDockExpired c d).ledger = p.ledger.lesser := by
  simp [Pillar.poorDockExpired]
@[simp] theorem openedWithoutGrant_ledger (d : DockNo) (p : Pillar) : (p.openedWithoutGrant d).ledger = p.ledger := by
  simp [Pillar.openedWithoutGrant]
@[simp] theorem dockPresent_ledger (c : Ctx) (d : DockNo) (p : Pillar) : (p.dockPresent c d).ledger = p.ledger := by
  unfold Pillar.dockPresent; dsimp only; split <;> rfl
@[simp] theorem dockAbsent_ledger (d : DockNo) (p : Pillar) : (p.dockAbsent d).ledger = p.ledger := by
  unfold Pillar.dockAbsent; split <;> rfl

theorem tagOutcome_entries (c : Ctx) (d : DockNo) (tag : Option Tag) (p : Pillar) :
    Entries p.ledger (p.tagOutcome c d tag).ledger := by
  unfold Pillar.tagOutcome; (repeat' split) <;> simp
theorem relockAtRest_entries (c : Ctx) (d : DockNo) (held : Bool) (p : Pillar) :
    Entries p.ledger (p.relockAtRest c d held).ledger := by
  unfold Pillar.relockAtRest; dsimp only; (repeat' split) <;> simp
theorem relockAttemptFailed_entries (c : Ctx) (d : DockNo) (p : Pillar) :
    Entries p.ledger (p.relockAttemptFailed c d).ledger := by
  unfold Pillar.relockAttemptFailed; (repeat' split) <;> simp
theorem relockTransferEnd_entries (c : Ctx) (d : DockNo) (o : ChanOutcome) (p : Pillar) :
    Entries p.ledger (p.relockTransferEnd c d o).ledger := by
  unfold Pillar.relockTransferEnd; (repeat' split) <;> simp [relockAtRest_entries, relockAttemptFailed_entries]
theorem relockChange_entries (c : Ctx) (d : DockNo) (held : Bool) (p : Pillar) :
    Entries p.ledger (p.relockChange c d held).ledger := by
  unfold Pillar.relockChange; (repeat' split) <;> simp [relockAtRest_entries]
theorem recover_entries (c : Ctx) (d : DockNo) (code : Code) (p : Pillar) :
    Entries p.ledger (p.recover c d code).ledger := by
  cases code <;> simp only [Pillar.recover] <;> (repeat' split) <;> simp
theorem returnGone_entries (c : Ctx) (d : DockNo) (p : Pillar) : Entries p.ledger (p.returnGone c d).ledger := by
  unfold Pillar.returnGone; dsimp only; (repeat' split) <;> simp
theorem dockCode_entries (c : Ctx) (d : DockNo) (code : Code) (p : Pillar) :
    Entries p.ledger (p.dockCode c d code).ledger := by
  unfold Pillar.dockCode; split <;> simp [recover_entries, returnGone_entries, relockChange_entries]
theorem silentDock_entries (c : Ctx) (d : DockNo) (p : Pillar) : Entries p.ledger (p.silentDock c d).ledger := by
  unfold Pillar.silentDock; (repeat' split) <;> simp
theorem lapse_entries (c : Ctx) (sec : Nat) (p : Pillar) : Entries p.ledger (p.lapse c sec).ledger :=
  foldl_entries (fun p d => by unfold Pillar.lapseDock; (repeat' split) <;> simp) _ _

/-! ## The Grant Engine -/

theorem holders_of_grant {p : Pillar} {i : Fin 8} {g : Grant} (h : p.grant i = some g) :
    p.ledger.holders i = some g.identity := congrArg (Option.map Grant.identity) h

/-- R87: the record of a grant that ends always enters, in the place that the grant held. -/
@[simp] theorem endGrant_ledger (c : Ctx) (i : Fin 8) (o : FinalOutcome) (detail : Detail) (tag : Option Tag)
    (p : Pillar) : (p.endGrant c i o detail tag).ledger = p.ledger.free i := by
  have holders : ∀ q : Pillar, q.grants = p.grants → (q.setGrant i none).ledger.holders = (p.ledger.free i).holders := by
    intro q hq
    funext j
    have same : q.grant j = p.grant j := by simp only [Pillar.grant, hq]
    simp only [Ledger.free, Function.update_apply, Pillar.ledger, setGrant_grant, same]
    by_cases h : i = j
    · rw [if_pos h, if_pos h.symm]; rfl
    · rw [if_neg h, if_neg (Ne.symm h)]
  have occupancy : ∀ q : Pillar, q.grants = p.grants → q.records.length = p.records.length + 1 →
      (p.grant i).isSome = true → (q.setGrant i none).ledger.occupancy = (p.ledger.free i).occupancy := by
    intro q hq hr held
    have pos := active_pos_of_isSome held
    have active : (q.setGrant i none).active = p.active - 1 := by
      have hqa : q.active = p.active := by simp only [Pillar.active, hq]
      have hqi : q.grant i = p.grant i := by simp only [Pillar.grant, hq]
      rw [setGrant_active, hqa, hqi, if_pos held]
      rfl
    show q.records.length + (q.setGrant i none).active = p.records.length + p.active
    omega
  have ended : ∀ q : Pillar, q.grants = p.grants → q.records.length = p.records.length + 1 →
      q.lastGrant = p.lastGrant → (p.grant i).isSome = true → (q.setGrant i none).ledger = p.ledger.free i := by
    intro q hq hr hl held
    have h1 := holders q hq
    have h2 := occupancy q hq hr held
    have h3 : (q.setGrant i none).ledger.lastGrant = (p.ledger.free i).lastGrant := hl
    cases hv : (q.setGrant i none).ledger
    cases hw : p.ledger.free i
    simp_all
  unfold Pillar.endGrant
  split
  · next h =>
    have already : p.ledger.holders i = none := congrArg (Option.map Grant.identity) h
    unfold Ledger.free
    rw [← already, Function.update_eq_self]
  · next g h =>
    dsimp only
    split
    · refine ended _ ?_ ?_ ?_ (h ▸ rfl)
      all_goals (unfold Pillar.sendFinal Pillar.enter; split <;> simp [Pillar.send])
    · exact ended _ rfl (by simp [Pillar.enter]) rfl (h ▸ rfl)

@[simp] theorem takeDock_ledger (d : DockNo) (id : Nat) (p : Pillar) : (p.takeDock d id).ledger = p.ledger := rfl
@[simp] theorem endInPlace_ledger (d : DockNo) (p : Pillar) : (p.endInPlace d).ledger = p.ledger := rfl
@[simp] theorem endEmpty_ledger (c : Ctx) (d : DockNo) (p : Pillar) : (p.endEmpty c d).ledger = p.ledger := by
  simp [Pillar.endEmpty]
@[simp] theorem grantFault_ledger (c : Ctx) (d : DockNo) (cause : FaultCause) (gone : Bool) (p : Pillar) :
    (p.grantFault c d cause gone).ledger = p.ledger.lesser := by
  unfold Pillar.grantFault; dsimp only; split <;> simp
@[simp] theorem openJammed_ledger (c : Ctx) (i : Fin 8) (g : Grant) (p : Pillar) :
    (p.openJammed c i g).ledger = p.ledger.lesser.free i := by
  simp [Pillar.openJammed]
@[simp] theorem pulled_ledger (c : Ctx) (i : Fin 8) (g : Grant) (p : Pillar) :
    (p.pulled c i g).ledger = p.ledger.free i := by
  simp [Pillar.pulled]
@[simp] theorem grantRelocked_ledger (c : Ctx) (i : Fin 8) (g : Grant) (held : Bool) (p : Pillar) :
    (p.grantRelocked c i g held).ledger = p.ledger.free i := by
  unfold Pillar.grantRelocked; dsimp only; (repeat' split) <;> simp
@[simp] theorem grantRelockFailed_ledger (c : Ctx) (i : Fin 8) (g : Grant) (cause : FaultCause) (p : Pillar) :
    (p.grantRelockFailed c i g cause).ledger = p.ledger.lesser.free i := by
  simp [Pillar.grantRelockFailed]

/-- R63, R68, R85: the creation of a grant. -/
theorem createGrant_ledger {i : Fin 8} {p : Pillar} (h : p.grant i = none) (d : DockNo) (rider : Option RiderPart) :
    (p.createGrant i d rider).ledger = p.ledger.take i p.newId rider := by
  unfold Pillar.createGrant
  dsimp only
  rw [join_ledger, takeDock_ledger]
  unfold Pillar.ledger Ledger.take
  congr 1
  · funext j
    simp only [setGrant_grant, grant_with_lastGrant, Function.update_apply]
    by_cases hij : i = j
    · rw [if_pos hij, if_pos hij.symm]; rfl
    · rw [if_neg hij, if_neg (Ne.symm hij)]
  · have slot : ({ p with lastGrant := p.newId } : Pillar).grant i = none := h
    rw [setGrant_active, slot]
    rfl

/-- R20, R63, R65: the entry of a creation. -/
theorem createGrant_entries {i : Fin 8} {p : Pillar} {rider : Option RiderPart} (hslot : p.grant i = none)
    (hroom : p.roomForGrant = true)
    (haccount : ∀ j g x y, p.grant j = some g → rider = some x → g.rider = some y → y.account ≠ x.account)
    (d : DockNo) : Entries p.ledger (p.createGrant i d rider).ledger := by
  rw [createGrant_ledger hslot]
  refine .single (.take i p.newId rider (congrArg (Option.map Grant.identity) hslot) ?_ (newId_range p) ?_ ?_)
  · have room := (Bool.and_eq_true_iff.mp hroom).2
    rw [decide_eq_true_eq] at room
    exact Nat.lt_of_le_of_lt (Nat.le_add_right _ p.owedCount) room
  · intro j x hx
    obtain ⟨-, -, -, hfree, -⟩ := newId_eq p
    obtain ⟨g, hg, rfl⟩ := Option.map_eq_some_iff.mp hx
    exact findGrant_none hfree hg
  · intro j x y hx hy
    obtain ⟨z, hz, hrider⟩ := Option.bind_eq_some_iff.mp hy
    obtain ⟨g, hg, rfl⟩ := Option.map_eq_some_iff.mp hz
    exact haccount j g x y hg hx hrider

section Held

variable {p : Pillar} {i : Fin 8} {g : Grant} (hg : p.ledger.holders i = some g.identity)

include hg

theorem grantOpen_ledger (c : Ctx) : (p.grantOpen c i g).ledger = p.ledger :=
  setGrant_ledger (by simp) hg rfl
theorem grantRelock_ledger (cause : RelockCause) : (p.grantRelock i g cause).ledger = p.ledger :=
  (join_ledger ..).trans (setGrant_ledger (by simp) hg rfl)

/-- R75: a grant that is re-allocated keeps its identity, or ends. -/
theorem reallocate_entries (c : Ctx) (detail : Detail) : Entries p.ledger (p.reallocate c i g detail).ledger := by
  unfold Pillar.reallocate
  split
  · split
    · exact entries_of_eq ((join_ledger ..).trans (setGrant_ledger (takeDock_ledger ..) hg rfl))
    · simp
  · simp

theorem releaseFailed_entries (c : Ctx) : Entries p.ledger (p.releaseFailed c i g).ledger := by
  unfold Pillar.releaseFailed
  split
  · exact entries_of_eq ((placeAgain_ledger ..).trans (setGrant_ledger rfl hg rfl))
  · have faulted : ((p.grantFault c g.dock .unreachable false).startRelock g.dock).ledger = p.ledger.lesser := by simp
    refine (entries_lesser p.ledger).trans ?_
    rw [← faulted]
    exact reallocate_entries (by rw [faulted, lesser_holders, hg]) c _

theorem grantJammed_entries (c : Ctx) : Entries p.ledger (p.grantJammed c i g).ledger := by
  have faulted : ((p.grantFault c g.dock .jammed false).drop g.dock Cmd.isRelease).ledger = p.ledger.lesser := by simp
  unfold Pillar.grantJammed
  dsimp only
  split
  · rw [endGrant_ledger, faulted]; simp
  · refine (entries_lesser p.ledger).trans ?_
    rw [← faulted]
    exact reallocate_entries (by rw [faulted, lesser_holders, hg]) c _

theorem grantRelockAttemptFailed_entries (c : Ctx) : Entries p.ledger (p.grantRelockAttemptFailed c i g).ledger := by
  unfold Pillar.grantRelockAttemptFailed
  split
  · exact entries_of_eq ((placeAgain_ledger ..).trans (setGrant_ledger rfl hg rfl))
  · simp

omit hg in
theorem grantRelockChange_entries (c : Ctx) (held : Bool) :
    Entries p.ledger (p.grantRelockChange c i g held).ledger := by
  unfold Pillar.grantRelockChange; split <;> simp

theorem grantCode_entries (c : Ctx) (code : Code) : Entries p.ledger (p.grantCode c i g code).ledger := by
  unfold Pillar.grantCode
  (repeat' split) <;>
    simp [grantOpen_ledger hg, grantRelock_ledger hg, grantJammed_entries hg, grantRelockChange_entries]

theorem grantAbsent_entries (c : Ctx) : Entries p.ledger (p.grantAbsent c i g).ledger := by
  unfold Pillar.grantAbsent
  split
  · simp
  · exact entries_of_eq (setGrant_ledger rfl hg rfl)
  · simp

theorem grantRelockTransferEnd_entries (c : Ctx) (o : ChanOutcome) :
    Entries p.ledger (p.grantRelockTransferEnd c i g o).ledger := by
  unfold Pillar.grantRelockTransferEnd
  split
  · simp
  · simp
  · split
    · exact entries_of_eq (setGrant_ledger rfl hg rfl)
    · exact grantRelockAttemptFailed_entries hg c

theorem grantSilent_entries (c : Ctx) : Entries p.ledger (p.grantSilent c i g).ledger := by
  unfold Pillar.grantSilent
  have either : ∀ carrying : Bool, Entries p.ledger (if carrying then p.reallocate c i g .silent
      else p.endGrant c i .failed .latchUnknown (p.dock g.dock).tag).ledger := fun carrying => by
    cases carrying with
    | true => exact reallocate_entries hg c .silent
    | false => simp
  exact either _

theorem cancelGrant_entries (c : Ctx) : Entries p.ledger (p.cancelGrant c i g).ledger := by
  unfold Pillar.cancelGrant
  split
  · simp
  · split
    · exact .refl
    · exact entries_of_eq ((modRail_ledger ..).trans (setGrant_ledger rfl hg rfl))
  · rw [grantRelock_ledger (g := { g with cancelPending := true }) hg]
  · exact .refl
  · exact .refl

theorem abortActive_entries (c : Ctx) : Entries p.ledger (p.abortActive c i g).ledger := by
  unfold Pillar.abortActive
  split
  · rw [grantRelock_ledger (g := { g with cancelPending := true }) hg]
  · exact cancelGrant_entries hg c

end Held

theorem releaseOutcome_entries (c : Ctx) (id : Nat) (d : DockNo) (o : ChanOutcome) (p : Pillar) :
    Entries p.ledger (p.releaseOutcome c id d o).ledger := by
  unfold Pillar.releaseOutcome
  split
  · exact .refl
  · next i g h =>
    have hg := holders_of_grant (findGrant_some h).1
    (repeat' split)
    · rw [grantRelock_ledger hg]
    · exact entries_of_eq (setGrant_ledger rfl hg rfl)
    · exact releaseFailed_entries hg c
    · exact .refl

theorem relockOutcome_entries (c : Ctx) (d : DockNo) (o : ChanOutcome) (p : Pillar) :
    Entries p.ledger (p.relockOutcome c d o).ledger := by
  unfold Pillar.relockOutcome
  split
  · next i g h =>
    split
    · exact grantRelockTransferEnd_entries (holders_of_grant (grantOf_some h)) c o
    · exact .refl
  · exact relockTransferEnd_entries c d o p

theorem cancelRef_entries (c : Ctx) (ref : Byte) (p : Pillar) : Entries p.ledger (p.cancelRef c ref).ledger := by
  unfold Pillar.cancelRef
  split
  · next i g h => exact cancelGrant_entries (holders_of_grant (grantWithRef_some h).1) c
  · exact .refl

/-- R69: the hand-off changes the phase of a grant. -/
@[simp] theorem grantSending_ledger (m : Msg) (p : Pillar) : (p.grantSending m).ledger = p.ledger := by
  unfold Pillar.grantSending
  (repeat' split)
  · next h _ => exact setGrant_ledger rfl (holders_of_grant (findGrant_some h).1) rfl
  all_goals rfl
@[simp] theorem handOff_ledger (r : RailId) (p : Pillar) : (p.handOff r).ledger = p.ledger := by
  unfold Pillar.handOff; dsimp only; split <;> simp

/-! ## Events -/

theorem eventIf_entries {c : Ctx} {due : Bool} {f : Pillar → Pillar} {p : Pillar}
    (h : Entries p.ledger (f p).ledger) : Entries p.ledger (p.eventIf c due f).ledger := by
  cases due with
  | false => rw [eventIf_false]
  | true => rw [eventIf_true, event_ledger]; exact h

/-- An event of the rails, the heads or the filter records makes no entry. -/
theorem eventIf_offRails {c : Ctx} {due : Bool} {f : Pillar → Pillar} {p : Pillar} (h : (f p).offRails = p.offRails) :
    Entries p.ledger (p.eventIf c due f).ledger := eventIf_entries (by rw [ledger_of_offRails h])

theorem absentEvent_entries (c : Ctx) (d : DockNo) (p : Pillar) : Entries p.ledger (p.absentEvent c d).ledger := by
  have taken : (p.takePresence d).ledger = p.ledger := ledger_of_offRails (takePresence_offRails ..)
  unfold Pillar.absentEvent
  dsimp only
  rw [← taken]
  split
  · next i g h => exact grantAbsent_entries (holders_of_grant (grantOf_some h)) c
  · simp

theorem presentEvent_entries (c : Ctx) (d : DockNo) (p : Pillar) : Entries p.ledger (p.presentEvent c d).ledger := by
  have taken : (p.takePresence d).ledger = p.ledger := ledger_of_offRails (takePresence_offRails ..)
  unfold Pillar.presentEvent
  dsimp only
  split <;> simp [taken]

theorem codeEvent_entries (c : Ctx) (d : DockNo) (p : Pillar) : Entries p.ledger (p.codeEvent c d).ledger := by
  have training : ∀ q : Pillar, ((q.trainCode d).checkStray d).ledger = q.ledger := fun q =>
    ledger_of_offRails (by simp)
  unfold Pillar.codeEvent
  dsimp only
  rw [← modRail_ledger p (railOf d) (fun x => { x with codeDue := none })]
  split
  · exact .refl
  · rw [training]
    split
    · next i g h => exact grantCode_entries (holders_of_grant (grantOf_some h)) c _
    · exact dockCode_entries c d _ _

/-- R84, R129: the grant that held the dock is acted on after the dock has fallen silent, in the slot it had before. -/
theorem silentReport_entries (c : Ctx) (d : DockNo) (p : Pillar) : Entries p.ledger (p.silentReport c d).ledger := by
  have rail : (p.silentRail d).ledger = p.ledger := ledger_of_offRails (silentRail_offRails ..)
  have holders : ∀ q : Pillar, (q.silentDock c d).ledger.holders = q.ledger.holders := fun q => by
    unfold Pillar.silentDock
    (repeat' split) <;> simp
  have training : ∀ q : Pillar, (q.trainSilent d).ledger = q.ledger := fun q => ledger_of_offRails (by simp)
  unfold Pillar.silentReport
  dsimp only
  rw [training]
  refine (rail ▸ silentDock_entries c d (p.silentRail d) : Entries p.ledger _).trans ?_
  split
  · next i g h => exact grantSilent_entries (by rw [holders, rail, holders_of_grant (grantOf_some h)]) c
  · exact .refl

theorem deliver_entries (c : Ctx) (m : Msg) (o : ChanOutcome) (replies : List Byte) (p : Pillar) :
    Entries p.ledger (p.deliver c m o replies).ledger := by
  have rails : ∀ {q : Pillar}, q.offRails = p.offRails → Entries p.ledger q.ledger := fun h => by
    rw [ledger_of_offRails h]
  unfold Pillar.deliver
  split
  · exact releaseOutcome_entries ..
  · exact relockOutcome_entries ..
  · exact .refl
  · exact tagOutcome_entries ..
  · exact rails (by simp)
  · split <;> exact rails (by simp)

theorem channelOutcome_entries (c : Ctx) (r : RailId) (p : Pillar) :
    Entries p.ledger (p.channelOutcome c r).ledger := by
  unfold Pillar.channelOutcome
  split
  · dsimp only
    split
    · simp
    · next source _ _ _ _ =>
      rw [← modRail_ledger p r (fun x => { x with chan := Channel.idle }.completeFrom source)]
      exact deliver_entries ..
  · simp

theorem confirmExpiry_entries (c : Ctx) (id : Nat) (p : Pillar) : Entries p.ledger (p.confirmExpiry c id).ledger := by
  unfold Pillar.confirmExpiry
  split
  · next i g h => exact releaseFailed_entries (holders_of_grant (findGrant_some h).1) c
  · exact .refl

theorem pullExpiry_entries (id : Nat) (p : Pillar) : Entries p.ledger (p.pullExpiry id).ledger := by
  unfold Pillar.pullExpiry
  split
  · next i g h => rw [grantRelock_ledger (holders_of_grant (findGrant_some h).1)]
  · exact .refl

theorem relockExpiry_entries (c : Ctx) (id : Nat) (p : Pillar) : Entries p.ledger (p.relockExpiry c id).ledger := by
  unfold Pillar.relockExpiry
  split
  · next i g h => exact grantRelockAttemptFailed_entries (holders_of_grant (findGrant_some h).1) c
  · exact .refl

end Sys2Proof.Machine
end

