-- ==== Sys2Proof/Proofs/GrantInvariants.lean ====
section
/-!
PROOFS. Every step is a chain of entries in the ledger of the grants (`step_entries`), and so the room is never exceeded
(R65, R177) and the grants keep their identity (R63, R68).
-/

namespace Sys2Proof.Machine

/-! ## The events that are due -/

theorem tryRise_entries (c : Ctx) (d : DockNo) (p : Pillar) : Entries p.ledger (p.tryRise c d).ledger :=
  eventIf_offRails (rise_offRails d p)
theorem tryReset_entries (c : Ctx) (d : DockNo) (p : Pillar) : Entries p.ledger (p.tryReset c d).ledger :=
  eventIf_offRails (lowReset_offRails d p)
theorem tryChanTimeout_entries (c : Ctx) (r : RailId) (p : Pillar) : Entries p.ledger (p.tryChanTimeout c r).ledger :=
  eventIf_offRails (chanTimeout_offRails r p)
theorem tryClosing_entries (c : Ctx) (r : RailId) (p : Pillar) : Entries p.ledger (p.tryClosing c r).ledger :=
  eventIf_offRails (closingTimeout_offRails r p)
theorem tryAbort_entries (c : Ctx) (r : RailId) (p : Pillar) : Entries p.ledger (p.tryAbort c r).ledger :=
  eventIf_offRails (chanAbort_offRails r p)
theorem tryOutcome_entries (c : Ctx) (r : RailId) (p : Pillar) : Entries p.ledger (p.tryOutcome c r).ledger :=
  eventIf_entries (channelOutcome_entries c r p)
theorem tryRestore_entries (c : Ctx) (r : RailId) (p : Pillar) : Entries p.ledger (p.tryRestore c r).ledger :=
  eventIf_offRails (restore_offRails r p)
theorem tryHandOff_entries (c : Ctx) (r : RailId) (p : Pillar) : Entries p.ledger (p.tryHandOff c r).ledger :=
  eventIf_entries (entries_of_eq (handOff_ledger r p))
theorem trySilent_entries (c : Ctx) (d : DockNo) (p : Pillar) : Entries p.ledger (p.trySilent c d).ledger :=
  eventIf_entries (silentReport_entries c d p)
theorem tryFirstCode_entries (c : Ctx) (d : DockNo) (p : Pillar) : Entries p.ledger (p.tryFirstCode c d).ledger :=
  eventIf_entries (codeEvent_entries c d p)
theorem tryChange_entries (c : Ctx) (d : DockNo) (p : Pillar) : Entries p.ledger (p.tryChange c d).ledger :=
  eventIf_entries (codeEvent_entries c d p)
theorem tryPresent_entries (c : Ctx) (d : DockNo) (p : Pillar) : Entries p.ledger (p.tryPresent c d).ledger :=
  eventIf_entries (presentEvent_entries c d p)
theorem tryAbsent_entries (c : Ctx) (d : DockNo) (p : Pillar) : Entries p.ledger (p.tryAbsent c d).ledger :=
  eventIf_entries (absentEvent_entries c d p)
theorem tryPoor_entries (c : Ctx) (d : DockNo) (p : Pillar) : Entries p.ledger (p.tryPoor c d).ledger :=
  eventIf_entries (by rw [poorDockExpired_ledger]; exact entries_lesser _)
theorem tryRelock_entries (c : Ctx) (d : DockNo) (p : Pillar) : Entries p.ledger (p.tryRelock c d).ledger :=
  eventIf_entries (relockAttemptFailed_entries c d p)
theorem tryConfirmExpiry_entries (c : Ctx) (id : Nat) (p : Pillar) :
    Entries p.ledger (p.tryConfirmExpiry c id).ledger := eventIf_entries (confirmExpiry_entries c id p)
theorem tryPullExpiry_entries (c : Ctx) (id : Nat) (p : Pillar) : Entries p.ledger (p.tryPullExpiry c id).ledger :=
  eventIf_entries (pullExpiry_entries id p)
theorem tryRelockExpiry_entries (c : Ctx) (id : Nat) (p : Pillar) :
    Entries p.ledger (p.tryRelockExpiry c id).ledger := eventIf_entries (relockExpiry_entries c id p)
theorem tryTrainExpiry_entries (c : Ctx) (r : RailId) (p : Pillar) : Entries p.ledger (p.tryTrainExpiry c r).ledger :=
  eventIf_offRails (trainExpire_offRails r p)
theorem trySweepEnd_entries (c : Ctx) (r : RailId) (p : Pillar) : Entries p.ledger (p.trySweepEnd c r).ledger :=
  eventIf_offRails (endSweep_offRails r p)
theorem trySchedule_entries (r : RailId) (p : Pillar) : Entries p.ledger (p.trySchedule r).ledger := by
  unfold Pillar.trySchedule
  split
  · exact entries_of_eq (ledger_of_offRails (schedule_offRails r p))
  · exact .refl

theorem settleChannel_entries (c : Ctx) (r : RailId) (p : Pillar) :
    Entries p.ledger (p.settleChannel c r).ledger := by
  refine .trans (tryChanTimeout_entries c r p) (.trans (tryClosing_entries c r _) ?_)
  exact .trans (tryAbort_entries c r _) (.trans (tryOutcome_entries c r _) (tryRestore_entries c r _))

theorem settleFilters_entries (c : Ctx) (p : Pillar) : Entries p.ledger (p.settleFilters c).ledger :=
  foldl_entries (fun _ d => .trans (tryRise_entries c d _) (tryReset_entries c d _)) _ _

theorem settleScan_entries (c : Ctx) (r : RailId) (p : Pillar) : Entries p.ledger (p.settleScan c r).ledger := by
  have silent : ∀ q : Pillar, Entries q.ledger
      (match (q.rail r).silentDue with | some d => q.trySilent c d | none => q).ledger := fun q => by
    split
    · exact trySilent_entries ..
    · exact .refl
  have code : ∀ q : Pillar, Entries q.ledger
      (match (q.rail r).codeDue with
        | some (d, first) => if first then q.tryFirstCode c d else q.tryChange c d
        | none => q).ledger := fun q => by
    (repeat' split)
    · exact tryFirstCode_entries ..
    · exact tryChange_entries ..
    · exact .refl
  have presence : ∀ q : Pillar, Entries q.ledger
      (match (q.rail r).presenceDue with
        | some (d, present) => if present then q.tryPresent c d else q.tryAbsent c d
        | none => q).ledger := fun q => by
    (repeat' split)
    · exact tryPresent_entries ..
    · exact tryAbsent_entries ..
    · exact .refl
  refine (silent p).trans ((code _).trans ((presence _).trans ?_))
  exact .trans (trySweepEnd_entries c r _) (tryTrainExpiry_entries c r _)

theorem settleDocks_entries (c : Ctx) (p : Pillar) : Entries p.ledger (p.settleDocks c).ledger :=
  foldl_entries (fun _ d => .trans (tryPoor_entries c d _) (tryRelock_entries c d _)) _ _

theorem settleGrants_entries (c : Ctx) (p : Pillar) : Entries p.ledger (p.settleGrants c).ledger := by
  refine foldl_entries (fun q i => ?_) _ _
  unfold Pillar.settleGrant
  split
  · next g _ =>
    exact .trans (tryConfirmExpiry_entries c g.id q)
      (.trans (tryPullExpiry_entries c g.id _) (tryRelockExpiry_entries c g.id _))
  · exact .refl

theorem settleFrame_entries (c : Ctx) (r : RailId) (p : Pillar) : Entries p.ledger (p.settleFrame c r).ledger :=
  .trans (tryHandOff_entries c r p) (trySchedule_entries r _)

theorem pillar_settle_entries (c : Ctx) (p : Pillar) : Entries p.ledger (p.settle c).ledger := by
  refine (settleChannel_entries c .a p).trans (.trans (settleChannel_entries c .b _) ?_)
  refine .trans (settleFilters_entries c _) (.trans (settleScan_entries c .a _) (.trans (settleScan_entries c .b _) ?_))
  refine .trans (settleDocks_entries c _) (.trans (settleGrants_entries c _) ?_)
  exact .trans (settleFrame_entries c .a _) (settleFrame_entries c .b _)

/-! ## The blocks around the pillar -/

theorem clockChanged_entries (c : Ctx) (old new : Clock) (p : Pillar) :
    Entries p.ledger (p.clockChanged c old new).ledger := by
  have record : Entries p.ledger (if new.state ≠ old.state then p.lesser c (.clock new.state) else p).ledger := by
    split <;> simp
  unfold Pillar.clockChanged
  refine record.trans ?_
  dsimp only
  generalize (if new.state ≠ old.state then p.lesser c (.clock new.state) else p) = q
  split
  · exact lapse_entries c new.sec (q.prune new)
  · exact .refl

theorem setClock_entries (k : Clock) (s : State) : Entries s.pillar.ledger (s.setClock k).pillar.ledger := by
  unfold State.setClock
  dsimp only
  split
  · rw [event_pillar, event_ledger]
    exact clockChanged_entries ..
  · exact .refl

theorem tryAbsence_entries (s : State) : Entries s.pillar.ledger s.tryAbsence.pillar.ledger := by
  unfold State.tryAbsence; split
  · exact setClock_entries ..
  · exact .refl
theorem tryGrowth_pillar (s : State) : s.tryGrowth.pillar = s.pillar := by
  unfold State.tryGrowth; split <;> rfl
theorem tryAligned_entries (s : State) : Entries s.pillar.ledger s.tryAligned.pillar.ledger := by
  unfold State.tryAligned; split
  · exact setClock_entries ..
  · exact .refl
theorem trySilence_pillar (s : State) : s.trySilence.pillar = s.pillar := by
  unfold State.trySilence; split <;> rfl
theorem tryGap_pillar (s : State) : s.tryGap.pillar = s.pillar := by
  unfold State.tryGap; split <;> rfl

theorem settleClock_entries (s : State) : Entries s.pillar.ledger s.settleClock.pillar.ledger := by
  unfold State.settleClock
  rw [tryGap_pillar, trySilence_pillar]
  refine (tryAbsence_entries s).trans ?_
  rw [← tryGrowth_pillar]
  exact tryAligned_entries _

/-! ## Station requests -/

theorem onDock_entries {dock : Byte} {f : DockNo → State → State × Response} {s : State}
    (h : ∀ d, Entries s.pillar.ledger (f d s).1.pillar.ledger) :
    Entries s.pillar.ledger (s.onDock dock f).1.pillar.ledger := by
  unfold State.onDock
  split
  · exact h _
  · exact .refl

/-- R98: an owed return enters while there is room. -/
theorem enterOwed_entries (c : Ctx) (p : Pillar) (d : DockNo) : Entries p.ledger (p.enterOwed c d).ledger := by
  unfold Pillar.enterOwed
  split
  · next o _ =>
    split
    · next hroom =>
      have entered : (p.enter c (.ret d o.tag o.notSensed o.intoService)).ledger = p.ledger.lesser := by
        rw [← lesser_ledger c (.ret d o.tag o.notSensed o.intoService), Pillar.lesser, if_pos hroom]
      rw [modDock_ledger, entered]
      exact entries_lesser _
    · exact .refl
  · exact .refl

theorem readRecords_entries (c : Ctx) (n : Nat) (p : Pillar) : Entries p.ledger (p.readRecords c n).ledger := by
  have dropped : Entries p.ledger ({ p with records := p.records.drop n } : Pillar).ledger := by
    have fewer : (p.records.drop n).length + p.active ≤ p.ledger.occupancy :=
      Nat.add_le_add_right (List.length_drop ▸ Nat.sub_le ..) _
    exact .single (.read _ fewer)
  have flags : ∀ {q : Pillar} {overflow attention : Bool}, Entries p.ledger q.ledger →
      Entries p.ledger ({ q with overflow := overflow, attention := attention } : Pillar).ledger := id
  unfold Pillar.readRecords
  dsimp only
  split
  · exact flags dropped
  · exact flags (dropped.trans (foldl_entries (enterOwed_entries c) _ _))

theorem clearFault_entries (c : Ctx) (d : DockNo) (p : Pillar) : Entries p.ledger (p.clearFault c d).ledger := by
  have relock : (if (p.head d).confirmed = some .open then p else p.endRelock d).ledger = p.ledger := by
    split <;> simp
  unfold Pillar.clearFault
  dsimp only
  generalize (if (p.head d).confirmed = some .open then p else p.endRelock d) = q at relock ⊢
  rw [← relock]
  split
  · exact recover_entries c d _ ((q.enterState d .silent).uninitFilter d)
  · simp

@[simp] theorem unfitDock_ledger (d : DockNo) (p : Pillar) : (p.unfitDock d).ledger = p.ledger :=
  (modRail_ledger ..).trans (drop_ledger d (fun _ => true) (p.setDock d (.fresh .unfitted)))
@[simp] theorem fitDock_ledger (d : DockNo) (p : Pillar) : (p.fitDock d).ledger = p.ledger := rfl

theorem applyGeometry_entries (new : BitVec 48) (p : Pillar) : Entries p.ledger (p.applyGeometry new).ledger :=
  foldl_entries (fun q d => by unfold Pillar.refitDock; (repeat' split) <;> simp) allDocks p

theorem applyStaffRelease_entries (dock : Byte) (s : State) :
    Entries s.pillar.ledger (s.applyStaffRelease dock).1.pillar.ledger := by
  refine onDock_entries fun d => ?_
  split
  · exact .refl
  split
  · exact .refl
  · next i hslot =>
    split
    · next hroom =>
      simp only [event_pillar, event_ledger]
      exact createGrant_entries (rider := none) (freeSlot_some hslot) hroom (fun _ _ _ _ _ => nofun) d
    · exact .refl

theorem applyAbortGrant_entries (grant : Byte) (s : State) :
    Entries s.pillar.ledger (s.applyAbortGrant grant).1.pillar.ledger := by
  unfold State.applyAbortGrant
  split
  · exact .refl
  split
  · exact .refl
  · next i g hg =>
    split
    · exact .refl
    · simp only [event_pillar, event_ledger]
      exact abortActive_entries (holders_of_grant (findGrant_some hg).1) _

theorem writeSetting_ledger (name : SettingName) (dock : Byte) (v : Nat) (s : State) :
    (s.writeSetting name dock v).pillar.ledger = s.pillar.ledger := by
  unfold State.writeSetting
  dsimp only
  split
  · rfl
  · split <;> rfl

/-- The requests: those of a dock, a grant, the records or the time make entries, and no other does. -/
theorem applyRequest_entries (r : Request) (s : State) :
    Entries s.pillar.ledger (applyRequest r s).1.pillar.ledger := by
  cases r with
  | status | denyClear | suspend | resume => exact .refl
  | readDock dock => exact onDock_entries fun _ => .refl
  | readRecords count =>
    simp only [applyRequest, State.applyReadRecords]
    split
    · exact readRecords_entries ..
    · exact .refl
  | setTime seconds mode force =>
    simp only [applyRequest, State.applySetTime]
    (repeat' split)
    · exact .refl
    · exact .refl
    · exact setClock_entries ..
    · exact .refl
  | keyLoad slot epoch key => simp only [applyRequest, State.applyKeyLoad]; (repeat' split) <;> exact .refl
  | keyDrop slot => simp only [applyRequest, State.applyKeyDrop]; (repeat' split) <;> exact .refl
  | denyAdd count ids => simp only [applyRequest, State.applyDenyAdd]; split <;> exact .refl
  | denyRemove account => simp only [applyRequest, State.applyDenyRemove]; split <;> exact .refl
  | holdSet kind dock id expiry =>
    simp only [applyRequest, State.applyHoldSet]
    (repeat' split)
    · exact onDock_entries fun d => by (repeat' split) <;> simp
    · exact onDock_entries fun d => by split <;> simp
    · exact .refl
  | holdClear dock => exact onDock_entries fun d => by split <;> simp
  | bikeCondition dock condition => exact onDock_entries fun d => by split <;> exact .refl
  | lampDirect dock pattern =>
    refine onDock_entries fun d => ?_
    simp only [State.setLamp]
    (repeat' split) <;> simp
  | lampAuto dock =>
    refine onDock_entries fun d => ?_
    simp only [State.setLamp]
    split <;> simp
  | clearFault dock =>
    refine onDock_entries fun d => ?_
    split
    · exact .refl
    · simp only [event_pillar, event_ledger]
      exact clearFault_entries ..
  | staffRelease dock => exact applyStaffRelease_entries dock s
  | abortGrant grant => exact applyAbortGrant_entries grant s
  | railTrain rail =>
    simp only [applyRequest, State.applyRailTrain]
    (repeat' split)
    · exact .refl
    · exact .refl
    · exact entries_of_eq (ledger_of_offRails (trainRail_offRails ..))
  | settingWrite setting dock value =>
    simp only [applyRequest, State.applySettingWrite]
    (repeat' split)
    any_goals exact .refl
    all_goals exact entries_of_eq (writeSetting_ledger ..)
  | settingRead setting dock => simp only [applyRequest, State.applySettingRead]; split <;> exact .refl
  | storeSettings => simp only [applyRequest, State.applyStore]; split <;> exact .refl
  | restoreFactory => simp only [applyRequest, State.applyRestore]; split <;> exact .refl
  | serviceEnter => simp only [applyRequest, State.applyServiceEnter]; (repeat' split) <;> exact .refl
  | serviceLeave =>
    simp only [applyRequest, State.applyServiceLeave]
    (repeat' split)
    · exact .refl
    · exact .refl
    · exact .refl
    · exact applyGeometry_entries ..

theorem takeRequest_entries (r : Request) (s : State) :
    Entries s.pillar.ledger (s.takeRequest r).pillar.ledger := by
  unfold State.takeRequest
  dsimp only
  (repeat' split)
  · exact .refl
  · exact .refl
  · exact applyRequest_entries r { s with link := s.link.take r }

theorem readSelection_pillar (n : Nat) (s : State) : (s.readSelection n).pillar = s.pillar := by
  unfold State.readSelection
  dsimp only
  (repeat' split) <;> rfl

theorem writeSelection_entries (bytes : List Byte) (s : State) :
    Entries s.pillar.ledger (s.writeSelection bytes).pillar.ledger := by
  unfold State.writeSelection
  (repeat' split)
  · exact .refl
  · exact .refl
  · exact .refl
  · exact .refl
  · exact takeRequest_entries _ s
  · rw [readSelection_pillar]
  · exact .refl

/-! ## The Token Check Unit and the rider link -/

theorem tryHeldCancel_entries (s : State) : Entries s.pillar.ledger s.tryHeldCancel.pillar.ledger := by
  unfold State.tryHeldCancel State.applyHeldCancel
  (repeat' split)
  · exact .refl
  · simp only [event_pillar, event_ledger]
    exact cancelRef_entries ..
  · exact .refl

theorem tryHeldRequest_entries (s : State) : Entries s.pillar.ledger s.tryHeldRequest.pillar.ledger := by
  unfold State.tryHeldRequest State.applyHeldRequest
  (repeat' split)
  · exact .refl
  · next r _ => exact applyRequest_entries r { s with tcu := { s.tcu with held := none } }
  · exact .refl

theorem settleHeld_entries (s : State) : Entries s.pillar.ledger s.settleHeld.pillar.ledger :=
  (tryHeldCancel_entries s).trans (tryHeldRequest_entries _)

theorem settle_entries (s : State) : Entries s.pillar.ledger s.settle.pillar.ledger := by
  rw [State.settle, onPillar_pillar]
  exact (settleClock_entries s).trans ((settleHeld_entries _).trans (pillar_settle_entries ..))

/-- R20: with no account busy, a new account is that of no active RIDER grant. -/
theorem account_ne_of_not_busy {p : Pillar} {account : Word} (h : ¬ p.accountBusy account = true) {j : Fin 8} {g : Grant}
    {y : RiderPart} (hg : p.grant j = some g) (hy : g.rider = some y) : y.account ≠ account := fun he =>
  h (List.any_eq_true.mpr
    ⟨some g, hg ▸ Vector.mem_toList_iff.mpr (Vector.getElem_mem j.isLt), by simp [hy, he]⟩)

/-- R65 to R68: a presentation whose account is not busy is accepted, or makes no entry. -/
theorem accept_entries {pres : Presentation} {p : Pillar} (h : ¬ p.accountBusy pres.token.account = true) (k : Clock) :
    Entries p.ledger (p.accept k pres).ledger := by
  unfold Pillar.accept
  dsimp only
  split
  · exact .refl
  · next i hslot =>
    split
    · next hroom =>
      split
      · next d _ =>
        refine createGrant_entries (p := p.prune k) (freeSlot_some hslot) (Bool.and_eq_true_iff.mp hroom).1 ?_ d
        intro j g x y hg hx hy
        cases hx
        exact account_ne_of_not_busy h hg hy
      · exact .refl
    · exact .refl

theorem verified_entries (c : Ctx) (k : Clock) (tcu : Tcu) (check : Check) (p : Pillar) :
    Entries p.ledger (p.verified c k tcu check).ledger := by
  unfold Pillar.verified Pillar.decide
  dsimp only
  (repeat' split)
  any_goals exact .refl
  next hbusy _ => exact accept_entries hbusy k

theorem endCheck_entries (s : State) : Entries s.pillar.ledger s.endCheck.pillar.ledger := by
  unfold State.endCheck
  split
  · exact .refl
  · simp only [event_pillar, event_ledger]
    exact verified_entries ..

theorem take_pillar (s : State) : s.take.pillar = s.pillar := by
  unfold State.take; split <;> rfl

theorem tryTake_entries (s : State) : Entries s.pillar.ledger (if s.canTake then s.take else s).pillar.ledger := by
  split
  · rw [take_pillar]
  · exact .refl

theorem acceptFrame_entries (r : RiderRequest) (s : State) : Entries s.pillar.ledger (s.acceptFrame r).pillar.ledger := by
  cases r with
  | present ref token =>
    simp only [State.acceptFrame, State.acceptPresent]
    split
    · exact .refl
    · simp
  | cancel ref =>
    simp only [State.acceptFrame, State.acceptCancel]
    (repeat' split)
    · simp
    · exact .refl
    · simp only [event_pillar, event_ledger]
      exact cancelRef_entries ..
  | query =>
    simp only [State.acceptFrame, State.acceptQuery, event_pillar, event_ledger, Pillar.query]
    split <;> simp

theorem receive_entries (b : Byte) (stopBit : Bool) (s : State) :
    Entries s.pillar.ledger (s.receive b stopBit).pillar.ledger := by
  unfold State.receive
  dsimp only
  split
  · exact acceptFrame_entries _ { s with rider := (s.rider.byte b stopBit).1 }
  · exact .refl

theorem ledger_with_tx (p : Pillar) (tx : Option SentFrame) : ({ p with tx := tx } : Pillar).ledger = p.ledger := rfl

theorem transmitComplete_entries (s : State) : Entries s.pillar.ledger s.transmitComplete.pillar.ledger := by
  unfold State.transmitComplete
  split
  · rw [event_pillar, event_ledger]
    exact entries_of_eq (ledger_with_tx s.pillar none)
  · exact .refl

/-! ## The ms tick -/

theorem completeStore_pillar (s : State) : s.completeStore.pillar = s.pillar := by
  unfold State.completeStore; split <;> rfl

theorem meetBounds_entries (s : State) : Entries s.pillar.ledger s.meetBounds.pillar.ledger := by
  have check : ∀ b : Bool, Entries s.pillar.ledger (if b then s.endCheck.settleHeld else s).pillar.ledger := fun b => by
    split
    · exact (endCheck_entries s).trans (settleHeld_entries _)
    · exact .refl
  have store : ∀ (b : Bool) (t : State),
      Entries t.pillar.ledger (if b then t.completeStore else t).pillar.ledger := fun b t => by
    split
    · rw [completeStore_pillar]
    · exact .refl
  exact (check _).trans ((store _ _).trans (tryTake_entries _))

/-- R23: the timers of the grants are no part of their identity. -/
theorem tickTimers_ledger (p : Pillar) : p.tickTimers.ledger = p.ledger := by
  have slot : ∀ i, p.tickTimers.grant i = (p.grant i).map Grant.tick := fun i => mapTable_getElem ..
  have active : p.tickTimers.active = p.active := by
    show (mapTable _ p.grants).toList.countP _ = _
    simp [mapTable, Pillar.active, List.countP_map, Function.comp_def]
  unfold Pillar.ledger
  congr 1
  · funext i
    rw [slot]
    cases p.grant i <;> rfl
  · rw [active]
    rfl

theorem msTick_entries (a b : Upstream) (s : State) : Entries s.pillar.ledger (s.msTick a b).pillar.ledger := by
  have timers : ∀ t : State, Entries t.pillar.ledger t.tickTimers.pillar.ledger := fun t => by
    rw [← tickTimers_ledger]
    exact setClock_entries _ { t with
      store := t.store.tick, link := t.link.tick _, tcu := t.tcu.tick, rider := t.rider.tick
      pillar := t.pillar.tickTimers }
  refine (meetBounds_entries s).trans ((timers _).trans (entries_of_eq (ledger_of_offRails ?_)))
  exact (frameEnd_offRails ..).trans (frameEnd_offRails ..)

/-! ## Every step is a chain of entries -/

theorem external_entries {f : State → State} (h : ∀ s : State, Entries s.pillar.ledger (f s).pillar.ledger) (s : State) :
    ∃ t, external f s = .next t ∧ Entries s.pillar.ledger t.pillar.ledger :=
  ⟨_, rfl, (settle_entries s).trans (h _)⟩

/-- An event row of the pillar. -/
theorem row_entries {f : Ctx → Pillar → Pillar} (h : ∀ c p, Entries p.ledger (f c p).ledger) (s : State) :
    ∃ t, (Host.Outcome.next (s.onPillar f) : Host.Outcome State Fault Refusal) = .next t ∧
      Entries s.pillar.ledger t.pillar.ledger :=
  ⟨_, rfl, h _ _⟩

theorem boot_ledger (cause : ResetCause) (fitted : BitVec 48) (ds : Vector Nat 48) :
    (Pillar.boot cause fitted ds).ledger = .boot := by
  unfold Pillar.ledger Ledger.boot
  congr 1
  funext i
  rw [boot_grant]
  rfl

theorem exec_entries (c : Instr) (s : State) :
    ∃ t, exec c s = .next t ∧ Entries s.pillar.ledger t.pillar.ledger := by
  have request : ∀ r, ∃ t, external (State.takeRequest r) s = .next t ∧ Entries s.pillar.ledger t.pillar.ledger :=
    fun r => external_entries (takeRequest_entries r) s
  have frame : ∀ r, ∃ t,
      external (fun s => ({ s with rider := s.rider.hunt } : State).acceptFrame r) s = .next t ∧
        Entries s.pillar.ledger t.pillar.ledger :=
    fun r => external_entries (fun t => acceptFrame_entries r { t with rider := t.rider.hunt }) s
  cases c with
  | reset cause => exact ⟨_, rfl, boot_ledger .. ▸ .single .reset⟩
  | msTick a b => exact external_entries (msTick_entries a b) s
  | absenceExpiry => exact ⟨_, rfl, tryAbsence_entries s⟩
  | growthStep => exact ⟨_, rfl, by rw [tryGrowth_pillar]⟩
  | alignedSetExpiry => exact ⟨_, rfl, tryAligned_entries s⟩
  | refpulse cycles => exact external_entries (fun t => setClock_entries (t.clock.pulseArrives cycles) t) s
  | linkSilenceExpiry => exact ⟨_, rfl, by rw [trySilence_pillar]⟩
  | writeSelectionInvalid bytes => exact external_entries (writeSelection_entries bytes) s
  | readSelection clocked => exact external_entries (fun t => by rw [readSelection_pillar]) s
  | denyAdd count ids =>
    simp only [exec, execDenyAdd]
    split
    · exact request _
    · exact external_entries (writeSelection_entries _) s
  | status | readDock _ | readRecords _ | setTimeImmediate _ _ | setTimeAligned _ _ | keyLoad _ _ _ | keyDrop _
  | denyRemove _ | denyClear | holdSetReserve _ _ _ | holdSetService _ | holdClear _ | bikeCondition _ _
  | lampDirect _ _ | lampAuto _ | clearFault _ | staffRelease _ | abortGrant _ | suspend | resume | railTrain _
  | settingWrite _ _ _ | settingRead _ _ | storeSettings | restoreFactory | serviceEnter | serviceLeave =>
    exact request _
  | heldRequestApply => exact ⟨_, rfl, tryHeldRequest_entries s⟩
  | storeComplete => exact external_entries (fun t => by rw [completeStore_pillar]) s
  | present ref token => exact frame (.present ref token)
  | cancel ref => exact frame (.cancel ref)
  | query => exact frame .query
  | riderByteReceived byte stopBit => exact external_entries (receive_entries byte stopBit) s
  | riderGapTimeout => exact ⟨_, rfl, by rw [tryGap_pillar]⟩
  | transmitComplete => exact external_entries transmitComplete_entries s
  | takePresentation => exact external_entries tryTake_entries s
  | verificationEnd => exact external_entries endCheck_entries s
  | heldCancelApply => exact ⟨_, rfl, tryHeldCancel_entries s⟩
  | baselineRise dock => exact row_entries (fun c => tryRise_entries c dock) s
  | baselineReset dock => exact row_entries (fun c => tryReset_entries c dock) s
  | channelTimeout rail => exact row_entries (fun c => tryChanTimeout_entries c rail) s
  | closingTimeout rail => exact row_entries (fun c => tryClosing_entries c rail) s
  | controllerAbort rail => exact row_entries (fun c => tryAbort_entries c rail) s
  | channelOutcome rail => exact row_entries (fun c => tryOutcome_entries c rail) s
  | quietCountRestore rail => exact row_entries (fun c => tryRestore_entries c rail) s
  | arbiterHandoff rail => exact row_entries (fun c => tryHandOff_entries c rail) s
  | silentReport dock => exact row_entries (fun c => trySilent_entries c dock) s
  | firstCodeEvent dock => exact row_entries (fun c => tryFirstCode_entries c dock) s
  | changeEvent dock => exact row_entries (fun c => tryChange_entries c dock) s
  | presentEvent dock => exact row_entries (fun c => tryPresent_entries c dock) s
  | absentEvent dock => exact row_entries (fun c => tryAbsent_entries c dock) s
  | poorDock dock => exact row_entries (fun c => tryPoor_entries c dock) s
  | grantlessRelockDeadline dock => exact row_entries (fun c => tryRelock_entries c dock) s
  | grantConfirmExpiry grant => exact row_entries (fun c => tryConfirmExpiry_entries c grant.toNat) s
  | pullDeadlineExpiry grant => exact row_entries (fun c => tryPullExpiry_entries c grant.toNat) s
  | relockDeadlineExpiry grant => exact row_entries (fun c => tryRelockExpiry_entries c grant.toNat) s
  | trainDeadlineExpiry rail => exact row_entries (fun c => tryTrainExpiry_entries c rail) s
  | sweepEnd rail => exact row_entries (fun c => trySweepEnd_entries c rail) s

theorem step_entries {s t : State} (h : step s = .next t) : Entries s.pillar.ledger t.pillar.ledger := by
  unfold step at h
  split at h
  · cases h; exact .refl
  · next c rest _ =>
    obtain ⟨u, hu, hc⟩ := exec_entries c { s with pending := rest }
    rw [hu] at h
    cases h
    exact hc

/-! ## The room (R65, R177) -/

theorem entry_room {v w : Ledger} (h : Entry v w) (hv : v.occupancy ≤ Config.roomMax) :
    w.occupancy ≤ Config.roomMax := by
  cases h with
  | lesser =>
    unfold Ledger.lesser
    split
    · next hlt => exact hlt
    · exact hv
  | free i => exact hv
  | take i id rider _ hroom _ _ _ => exact hroom
  | read n hn => exact hn.trans hv
  | reset => exact (by decide : 1 ≤ Config.roomMax)

theorem entries_room {v w : Ledger} (h : Entries v w) (hv : v.occupancy ≤ Config.roomMax) :
    w.occupancy ≤ Config.roomMax := by
  induction h with
  | refl => exact hv
  | tail _ hc ih => exact entry_room hc ih

/-- Settles O51: every step is a chain of entries, and each entry keeps the room. -/
theorem roomIsNeverExceeded : Obligations.RoomIsNeverExceeded := fun _ _ hs h => entries_room (step_entries h) hs

/-! ## The identity of the grants (R63, R68) -/

/-- What `Pillar.grantsOk` says, of the ledger. -/
def Ledger.ok (v : Ledger) : Prop :=
  v.lastGrant ≤ 255 ∧ (∀ i x, v.holders i = some x → 1 ≤ x.1 ∧ x.1 ≤ 255) ∧
  (∀ i j x y, v.holders i = some x → v.holders j = some y → i ≠ j → x.1 ≠ y.1) ∧
  (∀ i j x y, (v.holders i).bind Prod.snd = some x → (v.holders j).bind Prod.snd = some y → i ≠ j →
    x.account ≠ y.account)

theorem ledger_holder {p : Pillar} {i : Fin 8} {x : Nat × Option RiderPart} :
    p.ledger.holders i = some x ↔ ∃ g, p.grant i = some g ∧ g.identity = x := Option.map_eq_some_iff

theorem ledger_rider {p : Pillar} {i : Fin 8} {r : RiderPart} :
    (p.ledger.holders i).bind Prod.snd = some r ↔ ∃ g, p.grant i = some g ∧ g.rider = some r := by
  rw [show p.ledger.holders i = (p.grant i).map Grant.identity from rfl]
  cases p.grant i <;> simp [Grant.identity]

theorem grantsOk_iff (p : Pillar) : p.grantsOk ↔ p.ledger.ok := by
  unfold Pillar.grantsOk Ledger.ok
  refine and_congr Iff.rfl (and_congr ?_ (and_congr ?_ ?_))
  · exact ⟨fun h i x hx => by obtain ⟨g, hg, rfl⟩ := ledger_holder.mp hx; exact h i g hg,
      fun h i g hg => h i _ (holders_of_grant hg)⟩
  · refine ⟨fun h i j x y hx hy hij => ?_, fun h i j x y hx hy hij => ?_⟩
    · obtain ⟨g, hg, rfl⟩ := ledger_holder.mp hx
      obtain ⟨k, hk, rfl⟩ := ledger_holder.mp hy
      exact h i j g k hg hk hij
    · exact h i j _ _ (holders_of_grant hx) (holders_of_grant hy) hij
  · refine ⟨fun h i j x y hx hy hij => ?_, fun h i j g k x y hg hk hij hx hy => ?_⟩
    · obtain ⟨g, hg, hgx⟩ := ledger_rider.mp hx
      obtain ⟨k, hk, hky⟩ := ledger_rider.mp hy
      exact h i j g k x y hg hk hij hgx hky
    · exact h i j x y (ledger_rider.mpr ⟨g, hg, hx⟩) (ledger_rider.mpr ⟨k, hk, hy⟩) hij

/-- A slot whose holder is set holds that, and every other slot what it held. -/
theorem update_holder {f : Fin 8 → Option (Nat × Option RiderPart)} {i j : Fin 8} {v : Option (Nat × Option RiderPart)} :
    (j = i ∧ Function.update f i v j = v) ∨ (j ≠ i ∧ Function.update f i v j = f j) := by
  by_cases h : j = i
  · exact .inl ⟨h, by rw [h, Function.update_self]⟩
  · exact .inr ⟨h, Function.update_of_ne h ..⟩

/-- R87: the identities that are left when a grant ends. -/
theorem free_ok {v : Ledger} (i : Fin 8) (h : v.ok) : (v.free i).ok := by
  have kept : ∀ j x, (v.free i).holders j = some x → v.holders j = some x := fun j x hx => by
    rcases update_holder (f := v.holders) (i := i) (j := j) (v := none) with ⟨-, he⟩ | ⟨-, he⟩
    · exact absurd (he.symm.trans hx) nofun
    · exact he.symm.trans hx
  have rider : ∀ j r, ((v.free i).holders j).bind Prod.snd = some r → (v.holders j).bind Prod.snd = some r :=
    fun j r hr => by
      obtain ⟨x, hx, hxr⟩ := Option.bind_eq_some_iff.mp hr
      rw [kept j x hx]
      exact hxr
  obtain ⟨hlast, hrange, hid, haccount⟩ := h
  exact ⟨hlast, fun j x hx => hrange j x (kept j x hx), fun j k x y hx hy => hid j k x y (kept j x hx) (kept k y hy),
    fun j k x y hx hy => haccount j k x y (rider j x hx) (rider k y hy)⟩

/-- R63, R68: a new identity apart from those in the other slots. -/
theorem take_ok {v : Ledger} (i : Fin 8) {id : Nat} {rider : Option RiderPart} (hrange : 1 ≤ id ∧ id ≤ 255)
    (hid : ∀ j x, v.holders j = some x → x.1 ≠ id)
    (haccount : ∀ j x y, rider = some x → (v.holders j).bind Prod.snd = some y → y.account ≠ x.account) (h : v.ok) :
    (v.take i id rider).ok := by
  obtain ⟨-, hranges, hids, haccounts⟩ := h
  have slot : ∀ j, (j = i ∧ (v.take i id rider).holders j = some (id, rider)) ∨
      (j ≠ i ∧ (v.take i id rider).holders j = v.holders j) := fun j => update_holder
  refine ⟨hrange.2, fun j x hx => ?_, fun j k x y hx hy hjk => ?_, fun j k x y hx hy hjk => ?_⟩
  · rcases slot j with ⟨-, hj⟩ | ⟨-, hj⟩ <;> rw [hj] at hx
    · cases hx; exact hrange
    · exact hranges j x hx
  · rcases slot j with ⟨hji, hj⟩ | ⟨-, hj⟩ <;> rcases slot k with ⟨hki, hk⟩ | ⟨-, hk⟩ <;>
      rw [hj] at hx <;> rw [hk] at hy
    · exact absurd (hji.trans hki.symm) hjk
    · cases hx; exact (hid k y hy).symm
    · cases hy; exact hid j x hx
    · exact hids j k x y hx hy hjk
  · rcases slot j with ⟨hji, hj⟩ | ⟨-, hj⟩ <;> rcases slot k with ⟨hki, hk⟩ | ⟨-, hk⟩ <;>
      rw [hj] at hx <;> rw [hk] at hy
    · exact absurd (hji.trans hki.symm) hjk
    · exact (haccount k x y hx hy).symm
    · exact haccount j y x hy hx
    · exact haccounts j k x y hx hy hjk

theorem entry_ok {v w : Ledger} (h : Entry v w) (hv : v.ok) : w.ok := by
  cases h with
  | lesser =>
    unfold Ledger.lesser
    split <;> exact hv
  | free i => exact free_ok i hv
  | take i id rider _ _ hrange hid haccount => exact take_ok i hrange hid haccount hv
  | read n _ => exact hv
  | reset => exact ⟨Nat.zero_le _, nofun, nofun, nofun⟩

theorem entries_ok {v w : Ledger} (h : Entries v w) (hv : v.ok) : w.ok := by
  induction h with
  | refl => exact hv
  | tail _ hc ih => exact entry_ok hc ih

/-- Settles O55: every step is a chain of entries, and each entry keeps the identities apart. -/
theorem grantsKeepTheirIdentity : Obligations.GrantsKeepTheirIdentity := fun s t hs h =>
  (grantsOk_iff t.pillar).mpr (entries_ok (step_entries h) ((grantsOk_iff s.pillar).mp hs))

end Sys2Proof.Machine
end

