-- ==== Sys2Proof/Proofs/EventFrames.lean ====
section
/-!
PROOFS. What the end of an event leaves of the event's own effect (R57, R166): the lamps join UPKEEP and change nothing else,
and the start of a transmission changes the output side alone.
-/

namespace Sys2Proof.Machine

/-! ## The start of a transmission (R166) -/

/-- R166: the start of a transmission changes the output side alone. -/
theorem transmit_frame (c : Ctx) (p : Pillar) : ∃ out tx, p.transmit c = { p with out := out, tx := tx } := by
  rcases transmit_cases c p with ⟨f, rest, -, -, h⟩ | ⟨-, h⟩
  · exact ⟨_, _, h⟩
  · exact ⟨p.out, p.tx, h⟩

@[simp] theorem transmit_docks (c : Ctx) (p : Pillar) : (p.transmit c).docks = p.docks := by
  obtain ⟨out, tx, h⟩ := transmit_frame c p; rw [h]
@[simp] theorem transmit_grants (c : Ctx) (p : Pillar) : (p.transmit c).grants = p.grants := by
  obtain ⟨out, tx, h⟩ := transmit_frame c p; rw [h]
@[simp] theorem transmit_rail (c : Ctx) (p : Pillar) (r : RailId) : (p.transmit c).rail r = p.rail r := by
  obtain ⟨out, tx, h⟩ := transmit_frame c p
  rw [h]
  cases r <;> rfl

/-! ## The lamps (R57) -/

/-- R57: an event that leaves a dock as it was leaves its lamp. -/
theorem relampDock_of_dock {before p : Pillar} {d : DockNo} (h : p.dock d = before.dock d) :
    before.relampDock p d = p := by
  rcases relampDock_cases before p d with hd | ⟨hsilent, -, hchange, -⟩
  · exact hd
  · rw [h] at hsilent hchange
    exact (hchange.elim hsilent (fun hne => hne rfl)).elim

theorem relamp_of_docks {before p : Pillar} (h : p.docks = before.docks) : before.relamp p = p := by
  have same : ∀ d, before.relampDock p d = p := fun d =>
    relampDock_of_dock (by simp only [Pillar.dock, h])
  unfold Pillar.relamp
  induction allDocks with
  | nil => rfl
  | cons d rest ih => rw [List.foldl_cons, same, ih]

/-- R57, R166: an event that leaves the docks as they were ends with the start of a transmission alone. -/
theorem event_of_docks {c : Ctx} {f : Pillar → Pillar} {p : Pillar} (h : (f p).docks = p.docks) :
    p.event c f = (f p).transmit c := by
  rw [Pillar.event, relamp_of_docks h]

/-- What holds of every rail before the lamps of an event, and stays when a LAMP joins UPKEEP, holds after them. -/
theorem relamp_rail_induction {before p : Pillar} {r : RailId} {P : Rail → Prop} (h0 : P (p.rail r))
    (hjoin : ∀ (x : Rail) (m : Msg), (∃ pattern, m.cmd = .lamp pattern) → P x →
      P (x.setQueue .upkeep (joinTail (x.queue .upkeep) m))) : P ((before.relamp p).rail r) := by
  have dock : ∀ (q : Pillar) (d : DockNo), P (q.rail r) → P ((before.relampDock q d).rail r) := by
    intro q d hq
    rcases relampDock_cases before q d with h | ⟨-, -, -, h⟩ <;> rw [h]
    · exact hq
    · simp only [Pillar.join, Pillar.modRail, setRail_rail]
      split
      · next hr => subst hr; exact hjoin _ _ ⟨_, rfl⟩ hq
      · exact hq
  unfold Pillar.relamp
  induction allDocks generalizing p with
  | nil => exact h0
  | cons d rest ih => exact ih (dock p d h0)

@[simp] theorem relamp_chan (before p : Pillar) (r : RailId) :
    ((before.relamp p).rail r).chan = (p.rail r).chan :=
  relamp_rail_induction (P := fun x => x.chan = (p.rail r).chan) rfl fun x m _ h => by rw [setQueue_chan, h]

/-- R57: the lamps leave every queue but UPKEEP. -/
theorem relamp_queue (before p : Pillar) (r : RailId) {src : Source} (hsrc : src ≠ .upkeep) :
    ((before.relamp p).rail r).queue src = (p.rail r).queue src :=
  relamp_rail_induction (P := fun x => x.queue src = (p.rail r).queue src) rfl fun x m _ h => by
    rw [queue_setQueue_ne _ _ hsrc, h]

/-- R57: what waits after the lamps waited before them, or is a LAMP. -/
theorem mem_relamp_queue {before p : Pillar} {r : RailId} {src : Source} {m : Msg}
    (h : m ∈ ((before.relamp p).rail r).queue src) :
    m ∈ (p.rail r).queue src ∨ ∃ pattern, m.cmd = .lamp pattern := by
  revert h
  refine relamp_rail_induction
    (P := fun x => m ∈ x.queue src → m ∈ (p.rail r).queue src ∨ ∃ pattern, m.cmd = .lamp pattern) .inl ?_
  intro x lamp hlamp ih hm
  by_cases hsrc : src = .upkeep
  · subst hsrc
    rw [queue_setQueue_self] at hm
    rcases mem_joinTail hm with rfl | hm
    · exact .inr hlamp
    · exact ih hm
  · rw [queue_setQueue_ne _ _ hsrc] at hm
    exact ih hm

/-! ## Events (R57, R166) -/

section Event

variable (c : Ctx) (f : Pillar → Pillar) (p : Pillar)

/-- Beyond its own effect, an event changes the rails and the output side alone. -/
theorem event_tables :
    (p.event c f).docks = (f p).docks ∧ (p.event c f).order = (f p).order ∧ (p.event c f).grants = (f p).grants ∧
    (p.event c f).records = (f p).records ∧ (p.event c f).spent = (f p).spent ∧
    (p.event c f).overflow = (f p).overflow := by
  obtain ⟨a, b, out, tx, h⟩ := event_frame c f p
  rw [h]
  exact ⟨rfl, rfl, rfl, rfl, rfl, rfl⟩

theorem event_dock (d : DockNo) : (p.event c f).dock d = (f p).dock d := by
  obtain ⟨h, -⟩ := event_tables c f p
  simp only [Pillar.dock, h]

theorem event_grant (i : Fin 8) : (p.event c f).grant i = (f p).grant i := by
  obtain ⟨-, -, h, -⟩ := event_tables c f p
  simp only [Pillar.grant, h]

theorem event_queue (r : RailId) {src : Source} (hsrc : src ≠ .upkeep) :
    ((p.event c f).rail r).queue src = ((f p).rail r).queue src := by
  rw [Pillar.event, transmit_rail, relamp_queue _ _ _ hsrc]

theorem mem_event_queue {r : RailId} {src : Source} {m : Msg} (h : m ∈ ((p.event c f).rail r).queue src) :
    m ∈ ((f p).rail r).queue src ∨ ∃ pattern, m.cmd = .lamp pattern := by
  rw [Pillar.event, transmit_rail] at h
  exact mem_relamp_queue h

end Event

/-- Two effects that agree on the pillar make one event. -/
theorem event_congr {c : Ctx} {f g : Pillar → Pillar} {p : Pillar} (h : f p = g p) : p.event c f = p.event c g := by
  rw [Pillar.event, h, Pillar.event]

/-- R165: what an AVAILABILITY reads is not changed by the lamps or the start of a transmission. -/
theorem build_of_tables {p q : Pillar} (hd : q.docks = p.docks) (hs : q.suspended = p.suspended) (c : Ctx)
    (f : OutFrame) : q.build c f = p.build c f := by
  cases f <;> simp [Pillar.build, hd, hs]

/-- R166: the output side after an event whose effect leaves the frame in transmission as it was. -/
theorem event_sends {c : Ctx} {f : Pillar → Pillar} {p : Pillar} (h : (f p).tx = p.tx) :
    p.sends c (f p).out (p.event c f) := by
  obtain ⟨a, b, hr⟩ := relamp_frame p (f p)
  unfold Pillar.sends Pillar.event
  rw [hr]
  unfold Pillar.transmit
  dsimp only
  rw [h]
  cases p.tx with
  | some x => exact ⟨rfl, rfl⟩
  | none =>
    cases (f p).out with
    | nil => exact ⟨rfl, rfl⟩
    | cons x rest => exact ⟨congrArg some (build_of_tables rfl rfl c x), rfl⟩

end Sys2Proof.Machine
end

