-- ==== Sys2Proof/Proofs/Arbiter.lean ====
section
/-!
PROOFS. The arbiter (R149, R150): which of the contending messages it chooses, and what the hand-off does.
-/

namespace Sys2Proof.Machine

/-! ## The choice (R150) -/

/-- R150: a choice among the sources seen so far: none when none of them contends, and otherwise one that contends and
gives way to no other. -/
def Rail.Chosen (x : Rail) (seen : List Source) : Option (Source × Msg) → Prop
  | none => ∀ src ∈ seen, ∀ m, ¬ x.contends src m
  | some (src, m) =>
    x.contends src m ∧ ∀ o ∈ seen, o ≠ src → ∀ m', x.contends o m' →
      x.threshold src < x.threshold o ∨ (x.threshold src = x.threshold o ∧ src.rank < o.rank)

/-- R150: a source with no contending message, or with a threshold above q, leaves the choice as it is. -/
theorem better_of_not_contends {x : Rail} {best : Option (Source × Msg)} {s : Source} (h : ∀ m, ¬ x.contends s m) :
    x.better best s = best := by
  unfold Rail.better
  split
  · rfl
  · next m hm => exact if_neg fun hq => h m ⟨hm, hq⟩

/-- R150: a source that contends is chosen when nothing was, or when its threshold is the smaller. -/
theorem better_of_contends {x : Rail} {s : Source} {m : Msg} (h : x.contends s m) :
    x.better none s = some (s, m) ∧
    ∀ s' m', x.better (some (s', m')) s = if x.threshold s < x.threshold s' then some (s, m) else some (s', m') := by
  obtain ⟨hm, hq⟩ := h
  unfold Rail.better
  rw [hm]
  dsimp only
  rw [if_pos hq]
  exact ⟨rfl, fun _ _ => if_pos hq⟩

/-- R150: the choice stays right as the next source in order is seen. -/
theorem chosen_better {x : Rail} {seen : List Source} {best : Option (Source × Msg)} {s : Source}
    (hs : ∀ o ∈ seen, o.rank < s.rank) (hbest : ∀ src m, best = some (src, m) → src ∈ seen)
    (h : x.Chosen seen best) : x.Chosen (seen ++ [s]) (x.better best s) := by
  by_cases hc : ∃ m, x.contends s m
  · obtain ⟨m, hm⟩ := hc
    obtain ⟨hnone, hsome⟩ := better_of_contends hm
    rcases best with _ | ⟨s', m'⟩
    · rw [hnone]
      refine ⟨hm, fun o ho hne m' ho' => ?_⟩
      rcases List.mem_append.mp ho with ho | ho
      · exact absurd ho' (h o ho m')
      · exact absurd (List.mem_singleton.mp ho) hne
    · obtain ⟨hs', hbefore⟩ := h
      have hrank := hs s' (hbest s' m' rfl)
      rw [hsome]
      split
      · next hlt =>
        refine ⟨hm, fun o ho hne m'' ho' => ?_⟩
        rcases List.mem_append.mp ho with ho | ho
        · by_cases he : o = s'
          · subst he; exact .inl hlt
          · have := hbefore o ho he m'' ho'
            omega
        · exact absurd (List.mem_singleton.mp ho) hne
      · next hge =>
        refine ⟨hs', fun o ho hne m'' ho' => ?_⟩
        rcases List.mem_append.mp ho with ho | ho
        · exact hbefore o ho hne m'' ho'
        · rw [List.mem_singleton.mp ho]
          omega
  · have hnot : ∀ m, ¬ x.contends s m := fun m hm => hc ⟨m, hm⟩
    have unseen : ∀ {o}, o ∈ seen ++ [s] → ∀ {m}, x.contends o m → o ∈ seen := fun {o} ho {m} hm => by
      rcases List.mem_append.mp ho with ho | ho
      · exact ho
      · rw [List.mem_singleton.mp ho] at hm
        exact absurd hm (hnot m)
    rw [better_of_not_contends hnot]
    rcases best with _ | ⟨s', m'⟩
    · exact fun o ho m hm => h o (unseen ho hm) m hm
    · exact ⟨h.1, fun o ho hne m'' hm => h.2 o (unseen ho hm) hne m'' hm⟩

/-- The source of a choice after one more source is that source or the one chosen before. -/
theorem better_source {x : Rail} {best : Option (Source × Msg)} {s src : Source} {m : Msg}
    (h : x.better best s = some (src, m)) : src = s ∨ best = some (src, m) := by
  by_cases hc : ∃ m, x.contends s m
  · obtain ⟨m', hm⟩ := hc
    obtain ⟨hnone, hsome⟩ := better_of_contends hm
    rcases best with _ | ⟨s', m''⟩
    · rw [hnone] at h
      cases h
      exact .inl rfl
    · rw [hsome] at h
      split at h
      · cases h; exact .inl rfl
      · exact .inr h
  · rw [better_of_not_contends fun m hm => hc ⟨m, hm⟩] at h
    exact .inr h

/-- R150: the arbiter's choice, the sources seen in the order in which equal thresholds give way. -/
theorem foldl_chosen (x : Rail) (rest : List Source) (seen : List Source) (best : Option (Source × Msg))
    (hsorted : (seen ++ rest).Pairwise (fun o s => o.rank < s.rank))
    (hbest : ∀ src m, best = some (src, m) → src ∈ seen) (h : x.Chosen seen best) :
    x.Chosen (seen ++ rest) (rest.foldl x.better best) := by
  induction rest generalizing seen best with
  | nil => rwa [List.append_nil]
  | cons s rest ih =>
    rw [List.append_cons] at hsorted ⊢
    refine ih (seen ++ [s]) (x.better best s) hsorted (fun src m hb => ?_) (chosen_better (fun o ho => ?_) hbest h)
    · rcases better_source hb with rfl | hb
      · simp
      · exact List.mem_append_left _ (hbest src m hb)
    · exact (List.pairwise_append.mp (List.pairwise_append.mp hsorted).1).2.2 o ho s (List.mem_singleton_self s)

theorem arbitrate_chosen (x : Rail) : x.Chosen sourceOrder x.arbitrate :=
  foldl_chosen x sourceOrder [] none (by decide) nofun nofun

theorem mem_sourceOrder (src : Source) : src ∈ sourceOrder := by cases src <;> decide

/-- R150: with no source contending, the arbiter chooses nothing. -/
theorem arbitrate_eq_none {x : Rail} (h : ∀ src m, ¬ x.contends src m) : x.arbitrate = none := by
  have chosen := arbitrate_chosen x
  cases hx : x.arbitrate with
  | none => rfl
  | some e =>
    rw [hx] at chosen
    exact absurd chosen.1 (h e.1 e.2)

/-- R150: some source is chosen whenever one contends. -/
theorem arbitrate_isSome {x : Rail} {src : Source} {m : Msg} (h : x.contends src m) : x.arbitrate.isSome = true := by
  have chosen := arbitrate_chosen x
  cases hx : x.arbitrate with
  | some e => rfl
  | none =>
    rw [hx] at chosen
    exact absurd h (chosen src (mem_sourceOrder src) m)

/-! ## The hand-off (R69, R150) -/

/-- The grants found by id are those of the grant table. -/
theorem findGrant_of_grants {p q : Pillar} (h : q.grants = p.grants) (id : Nat) : q.findGrant id = p.findGrant id := by
  unfold Pillar.findGrant Pillar.grant
  rw [h]

@[simp] theorem modRail_grants (p : Pillar) (r : RailId) (f : Rail → Rail) : (p.modRail r f).grants = p.grants :=
  setRail_grants ..
@[simp] theorem modRail_docks (p : Pillar) (r : RailId) (f : Rail → Rail) : (p.modRail r f).docks = p.docks :=
  setRail_docks ..
theorem modRail_rail (p : Pillar) (r q : RailId) (f : Rail → Rail) :
    (p.modRail r f).rail q = if r = q then f (p.rail r) else p.rail q := setRail_rail ..
@[simp] theorem modRail_rail_self (p : Pillar) (r : RailId) (f : Rail → Rail) :
    (p.modRail r f).rail r = f (p.rail r) := by
  rw [modRail_rail, if_pos rfl]

/-- R69: the hand-off of a RELEASE acts on the grant table alone. -/
theorem grantSending_frame (m : Msg) (p : Pillar) :
    (p.grantSending m).docks = p.docks ∧ ∀ r, (p.grantSending m).rail r = p.rail r := by
  unfold Pillar.grantSending
  (repeat' split)
  · exact ⟨rfl, fun r => setGrant_rail ..⟩
  all_goals exact ⟨rfl, fun _ => rfl⟩

/-- R69: the grant of a RELEASE handed off goes from QUEUED to SENDING. -/
theorem grantSending_release {m : Msg} {p : Pillar} {id : Nat} {i : Fin 8} {g : Grant} (hm : m.cmd = .release id)
    (hg : p.findGrant id = some (i, g)) (hphase : g.phase = .queued) (hdock : g.dock = m.dock) :
    (p.grantSending m).grant i = some { g with phase := .sending } := by
  unfold Pillar.grantSending
  rw [hm]
  dsimp only
  rw [hg]
  dsimp only
  rw [if_pos ⟨hphase, hdock⟩, setGrant_grant, if_pos rfl]

/-- R150: with no restore due, the hand-off by what the arbiter chooses. -/
theorem handOff_eq {r : RailId} {p : Pillar} (h : (p.rail r).restoreDue = false) :
    p.handOff r =
      match (p.rail r).arbitrate with
      | none => p.modRail r (fun x => { x with arbiterDue := false })
      | some (s, m) =>
        (p.modRail r (fun x =>
          { x.setQueue s ((x.queue s).erase m) with arbiterDue := false, chan := Channel.carry s m })).grantSending m := by
  have first : p.modRail r (fun x => { (if x.restoreDue then x.restoreLevels else x) with arbiterDue := false }) =
      p.modRail r (fun x => { x with arbiterDue := false }) := by
    simp [Pillar.modRail, h]
  have same : ({ p.rail r with arbiterDue := false } : Rail).arbitrate = (p.rail r).arbitrate := rfl
  unfold Pillar.handOff
  dsimp only
  rw [first, modRail_rail_self, same]
  cases (p.rail r).arbitrate with
  | none => rfl
  | some e =>
    dsimp only
    congr 1
    simp only [Pillar.modRail, setRail_rail, if_pos]
    cases r <;> cases e.1 <;> rfl

/-- R150, R166: the row of a hand-off that is due, on a pillar whose docks it leaves. -/
theorem exec_arbiterHandoff {s : State} {r : RailId} (h : (s.pillar.rail r).arbiterDue = true)
    (hdocks : (s.pillar.handOff r).docks = s.pillar.docks) :
    exec (.arbiterHandoff r) s = .next { s with pillar := (s.pillar.handOff r).transmit s.ctx } := by
  have due : s.pillar.tryHandOff s.ctx r = (s.pillar.handOff r).transmit s.ctx := by
    unfold Pillar.tryHandOff Pillar.arbiterDue
    rw [h, eventIf_true, event_of_docks hdocks]
  rw [← due]
  rfl

/-- Settles O40. -/
theorem arbiterHandsOffTheChannel : Obligations.ArbiterHandsOffTheChannel := by
  refine ⟨fun x => ⟨rfl, rfl, rfl, rfl⟩, fun s r => ⟨fun hdue => ?_, fun hdue hrestore hnone => ?_, ?_, ?_⟩⟩
  · have event : s.pillar.tryRestore s.ctx r = (s.pillar.restore r).transmit s.ctx := by
      unfold Pillar.tryRestore Pillar.restoreDue
      rw [hdue, eventIf_true, event_of_docks (modRail_docks ..)]
    refine ⟨{ s with pillar := (s.pillar.restore r).transmit s.ctx }, by rw [← event]; rfl, ?_⟩
    simp [Pillar.restore, Rail.restoreLevels]
  · have nothing : (s.pillar.rail r).arbitrate = none :=
      arbitrate_eq_none fun src m hc => absurd hc.2 (Nat.not_le.mpr (hnone src m hc.1))
    have handOff : s.pillar.handOff r = s.pillar.modRail r (fun x => { x with arbiterDue := false }) := by
      rw [handOff_eq hrestore, nothing]
    refine ⟨_, exec_arbiterHandoff hdue (by rw [handOff, modRail_docks]), ?_⟩
    rw [handOff]
    simp only [transmit_rail, transmit_docks, transmit_grants, modRail_rail_self, modRail_docks, modRail_grants]
    exact ⟨trivial, fun src => by cases src <;> rfl, trivial, trivial⟩
  · rintro ⟨src, m, hc⟩
    exact arbitrate_isSome hc
  · intro src m hdue hrestore hchoice
    have chosen := arbitrate_chosen (s.pillar.rail r)
    rw [hchoice] at chosen
    obtain ⟨⟨hcontending, hthreshold⟩, hbest⟩ := chosen
    set p := s.pillar.modRail r (fun x =>
      { x.setQueue src ((x.queue src).erase m) with arbiterDue := false, chan := Channel.carry src m }) with hp
    have handOff : s.pillar.handOff r = p.grantSending m := by
      rw [handOff_eq hrestore, hchoice]
    obtain ⟨hdocks, hrail⟩ := grantSending_frame m p
    have rail : ((p.grantSending m).transmit s.ctx).rail r =
        { (s.pillar.rail r).setQueue src (((s.pillar.rail r).queue src).erase m) with
          arbiterDue := false, chan := Channel.carry src m } := by
      rw [transmit_rail, hrail, hp, modRail_rail_self]
    refine ⟨_, exec_arbiterHandoff hdue (by rw [handOff, hdocks, hp, modRail_docks]), ?_⟩
    rw [handOff]
    dsimp only
    rw [rail]
    refine ⟨rfl, rfl, rfl, rfl, rfl, by cases src <;> rfl, hthreshold, hcontending,
      fun other o hne ho => hbest other (mem_sourceOrder other) hne o ho, fun id i g hm hg hphase hdock => ?_⟩
    have found : p.findGrant id = some (i, g) := by rw [findGrant_of_grants (modRail_grants ..), hg]
    simp only [Pillar.grant, transmit_grants]
    exact grantSending_release hm found hphase hdock

end Sys2Proof.Machine
end

