-- ==== Sys2Proof/Proofs/GrantCancel.lean ====
section
/-!
PROOFS. How a grant ends, relocks and is cancelled, in the terms of the statements (R51, R78, R81, R83, R87, R88), and
ABORT_GRANT.
-/

namespace Sys2Proof.Machine

/-! ## Messages withdrawn (R147) -/

/-- A requester that withdraws its messages for a dock leaves none that satisfies the test. -/
theorem mem_drop_queue {d : DockNo} {test : Cmd → Bool} {p : Pillar} {src : Source} {m : Msg}
    (h : m ∈ ((p.drop d test).rail (railOf d)).queue src) (hd : m.dock = d) : test m.cmd = false := by
  rw [Pillar.drop, modRail_rail_self, disown_queue, mem_withdraw] at h
  simpa [hd] using h.2

theorem enterState_dock (d e : DockNo) (st : DockState) (p : Pillar) :
    (p.enterState d st).dock e =
      if d = e then { p.dock d with state := st, cause := none, watch := none, poor := false } else p.dock e :=
  setDock_dock ..

theorem drop_dock (d e : DockNo) (test : Cmd → Bool) (p : Pillar) : (p.drop d test).dock e = p.dock e :=
  setRail_dock ..

/-! ## The end of a grant (R87) -/

/-- R87: the output queue with the OUTCOME of a grant that ends placed. -/
def Grant.frames (outcome : FinalOutcome) (out : List OutFrame) (g : Grant) : List OutFrame :=
  match g.rider with
  | some r => finalFrames r.ref outcome.rider g.dock out
  | none => out

/-- R87: the record of a grant that ends. -/
def Grant.ending (outcome : FinalOutcome) (tag : Option Tag) (detail : Detail) (g : Grant) : RecordBody :=
  .grantEnd outcome g.id g.dock tag (g.rider.map (fun r => (r.account, r.serial))) detail

theorem sendFinal_eq (ref : Byte) (outcome : RiderOutcome) (dock : DockNo) (p : Pillar) :
    p.sendFinal ref outcome dock = { p with out := finalFrames ref outcome dock p.out } := by
  unfold Pillar.sendFinal finalFrames
  split <;> rfl

/-- R87: all that the end of a grant changes beside its dock. -/
theorem endGrant_eq {p : Pillar} {i : Fin 8} {g : Grant} (h : p.grant i = some g) (c : Ctx) (outcome : FinalOutcome)
    (detail : Detail) (tag : Option Tag) :
    p.endGrant c i outcome detail tag =
      Pillar.setGrant
        { p with
          records := p.records ++ [{ time := c.stamp, body := g.ending outcome tag detail }]
          attention := true
          out := g.frames outcome p.out
          spent := if g.rider.isSome then clearSpent g.id p.spent else p.spent } i none := by
  unfold Pillar.endGrant
  rw [h]
  dsimp only
  congr 1
  cases hr : g.rider with
  | none => simp [Grant.frames, Grant.ending, hr, Pillar.enter]
  | some r => simp [Grant.frames, Grant.ending, hr, Pillar.enter, sendFinal_eq]

section EndGrant

variable {c : Ctx} {f : Pillar → Pillar} {p q : Pillar} {i : Fin 8} {g : Grant} {outcome : FinalOutcome} {detail : Detail}
  {tag : Option Tag} (hf : f p = q.endGrant c i outcome detail tag) (hg : q.grant i = some g)

include hf hg

/-- R87: the tables after an event that ends with the end of a grant; `q` is the pillar just before that end. -/
theorem event_endGrant_tables :
    (p.event c f).grant i = none ∧ (∀ j, j ≠ i → (p.event c f).grant j = q.grant j) ∧
    (p.event c f).records = q.records ++ [{ time := c.stamp, body := g.ending outcome tag detail }] ∧
    (p.event c f).spent = (if g.rider.isSome then clearSpent g.id q.spent else q.spent) ∧
    (p.event c f).order = q.order ∧ ∀ e, (p.event c f).dock e = q.dock e := by
  obtain ⟨-, horder, -, hrecords, hspent, -⟩ := event_tables c f p
  have slot : ∀ j, (p.event c f).grant j = if i = j then none else q.grant j := fun j => by
    rw [event_grant, hf, endGrant_eq hg, setGrant_grant]
    rfl
  rw [hf, endGrant_eq hg] at horder hrecords hspent
  refine ⟨by rw [slot, if_pos rfl], fun j hj => by rw [slot, if_neg (Ne.symm hj)], hrecords, hspent, horder, fun e => ?_⟩
  rw [event_dock, hf, endGrant_eq hg]
  rfl

/-- R87, R166: the output side after such an event. -/
theorem event_endGrant_sends (htx : q.tx = p.tx) : p.sends c (g.frames outcome q.out) (p.event c f) := by
  have sends := event_sends (c := c) (f := f) (p := p) (by rw [hf, endGrant_eq hg]; exact htx)
  rwa [hf, endGrant_eq hg] at sends

end EndGrant

/-! ## The relock of a grant (R78) -/

theorem join_grant (s : Source) (m : Msg) (p : Pillar) (i : Fin 8) : (p.join s m).grant i = p.grant i :=
  setRail_grant ..

theorem join_dock (s : Source) (m : Msg) (p : Pillar) (d : DockNo) : (p.join s m).dock d = p.dock d :=
  setRail_dock ..

/-- R78: what the relock of a grant does to the tables. -/
theorem grantRelock_tables (i : Fin 8) (g : Grant) (cause : RelockCause) (p : Pillar) :
    (∀ j, (p.grantRelock i g cause).grant j =
      if i = j then some { g with phase := .relock, cause := some cause, attempts := 1, timer := none }
      else p.grant j) ∧
    (∀ e, (p.grantRelock i g cause).dock e =
      if g.dock = e then { p.dock g.dock with state := .relocking, cause := none, watch := none, poor := false }
      else p.dock e) ∧
    (p.grantRelock i g cause).order = p.order ∧ (p.grantRelock i g cause).records = p.records ∧
    (p.grantRelock i g cause).spent = p.spent := by
  obtain ⟨-, dorder, -, drecords, dspent, -⟩ := tables_of_offRails (drop_offRails g.dock Cmd.isRelease p)
  obtain ⟨-, jorder, -, -, -, -, jspent, jrecords, -⟩ := join_tables .safety { cmd := .relock, dock := g.dock }
    (((p.drop g.dock Cmd.isRelease).enterState g.dock .relocking).setGrant i
      (some { g with phase := .relock, cause := some cause, attempts := 1, timer := none }))
  refine ⟨fun j => ?_, fun e => ?_, jorder.trans dorder, jrecords.trans drecords, jspent.trans dspent⟩
  · unfold Pillar.grantRelock
    dsimp only
    rw [join_grant, setGrant_grant]
    congr 1
    exact setRail_grant ..
  · unfold Pillar.grantRelock
    dsimp only
    rw [join_dock, setGrant_dock, enterState_dock, drop_dock, drop_dock]

theorem mem_grantRelock_queue {i : Fin 8} {g : Grant} {cause : RelockCause} {p : Pillar} {src : Source} {m : Msg}
    (h : m ∈ ((p.grantRelock i g cause).rail (railOf g.dock)).queue src) (hd : m.dock = g.dock) :
    m.cmd.isRelease = false := by
  have waited : ∀ {src}, m ∈ (((p.drop g.dock Cmd.isRelease).enterState g.dock .relocking).rail
      (railOf g.dock)).queue src → m.cmd.isRelease = false := fun hm => by
    rw [Pillar.enterState, Pillar.modDock, setDock_rail] at hm
    exact mem_drop_queue hm hd
  unfold Pillar.grantRelock at h
  dsimp only at h
  by_cases hsrc : src = .safety
  · subst hsrc
    rw [join_queue (m := { cmd := .relock, dock := g.dock })] at h
    rcases mem_joinTail h with rfl | h
    · rfl
    · rw [setGrant_rail] at h
      exact waited h
  · rw [join_queue_ne _ _ _ _ _ (.inr hsrc), setGrant_rail] at h
    exact waited h

/-- R78: a grant that an event relocks. -/
theorem relocks_of_event {s t : State} {c : Ctx} {f : Pillar → Pillar} {i : Fin 8} {g : Grant} {cause : RelockCause}
    (ht : t.pillar = s.pillar.event c f) (hf : f s.pillar = s.pillar.grantRelock i g cause) :
    s.relocks i g cause t := by
  obtain ⟨hgrant, hdock, horder, hrecords, hspent⟩ := grantRelock_tables i g cause s.pillar
  obtain ⟨-, eorder, -, erecords, espent, -⟩ := event_tables c f s.pillar
  unfold State.relocks
  rw [ht]
  refine ⟨?_, fun j hj => ?_, ?_, fun e he => ?_, ?_, fun src m hm hd => ?_, ?_, ?_, ?_⟩
  · rw [event_grant, hf, hgrant, if_pos rfl]
  · rw [event_grant, hf, hgrant, if_neg (Ne.symm hj)]
  · rw [event_dock, hf, hdock, if_pos rfl]
  · rw [event_dock, hf, hdock, if_neg (Ne.symm he)]
  · have safety := event_queue c f s.pillar (railOf g.dock) (src := .safety) nofun
    change _ ∈ ((s.pillar.event c f).rail (railOf g.dock)).queue .safety
    rw [safety, hf, Pillar.grantRelock, join_queue (m := { cmd := .relock, dock := g.dock })]
    exact mem_joinTail_self _ _
  · rcases mem_event_queue c f s.pillar hm with h | ⟨pattern, h⟩
    · rw [hf] at h
      exact mem_grantRelock_queue h hd
    · rw [h]
      rfl
  · rw [eorder, hf, horder]
  · rw [erecords, hf, hrecords]
  · rw [espent, hf, hspent]

/-! ## Cancel and abort, by the phase of the grant (R81, R83) -/

theorem cancelGrant_queued {c : Ctx} {i : Fin 8} {g : Grant} {p : Pillar} (h : g.phase = .queued) :
    p.cancelGrant c i g = ((p.drop g.dock Cmd.isRelease).endInPlace g.dock).endGrant c i .cancelled .beforeSend
      (p.dock g.dock).tag := by
  unfold Pillar.cancelGrant
  rw [h]

theorem cancelGrant_sending {c : Ctx} {i : Fin 8} {g : Grant} {p : Pillar} (h : g.phase = .sending)
    (hp : g.cancelPending = false) :
    p.cancelGrant c i g = (p.setGrant i (some { g with cancelPending := true })).modRail (railOf g.dock)
      (Rail.askAbort (fun m => m.dock = g.dock && m.cmd = .release g.id)) := by
  unfold Pillar.cancelGrant
  rw [h]
  exact if_neg (by rw [hp]; exact Bool.false_ne_true)

theorem cancelGrant_confirming {c : Ctx} {i : Fin 8} {g : Grant} {p : Pillar} (h : g.phase = .confirming) :
    p.cancelGrant c i g = p.grantRelock i { g with cancelPending := true } .cancel := by
  unfold Pillar.cancelGrant
  rw [h]

/-- R81: a cancel that comes too late, or once more. -/
theorem cancelGrant_late {c : Ctx} {i : Fin 8} {g : Grant} {p : Pillar}
    (h : g.phase = .open ∨ g.phase = .relock ∨ (g.phase = .sending ∧ g.cancelPending = true)) :
    p.cancelGrant c i g = p := by
  unfold Pillar.cancelGrant
  rcases h with h | h | ⟨h, hp⟩ <;> rw [h]
  exact if_pos hp

theorem abortActive_open {c : Ctx} {i : Fin 8} {g : Grant} {p : Pillar} (h : g.phase = .open) :
    p.abortActive c i g = p.grantRelock i { g with cancelPending := true } .cancel := by
  unfold Pillar.abortActive
  rw [h]

/-- R83: in every other phase an abort acts as a cancel does. -/
theorem abortActive_of_ne_open {c : Ctx} {i : Fin 8} {g : Grant} {p : Pillar} (h : g.phase ≠ .open) :
    p.abortActive c i g = p.cancelGrant c i g := by
  unfold Pillar.abortActive
  split
  · next ho => exact absurd ho h
  · rfl

/-! ### A grant that is cancelled before its RELEASE is sent -/

/-- R51: the pillar just before a QUEUED grant that is cancelled ends. -/
def Pillar.releaseDropped (g : Grant) (p : Pillar) : Pillar := (p.drop g.dock Cmd.isRelease).endInPlace g.dock

theorem releaseDropped_tables (g : Grant) (p : Pillar) :
    (p.releaseDropped g).order = p.order ∧ (p.releaseDropped g).records = p.records ∧
    (p.releaseDropped g).spent = p.spent ∧ (p.releaseDropped g).out = p.out ∧ (p.releaseDropped g).tx = p.tx ∧
    (∀ i, (p.releaseDropped g).grant i = p.grant i) ∧
    ∀ e, (p.releaseDropped g).dock e = if g.dock = e then (p.dock g.dock).keptInPlace else p.dock e := by
  obtain ⟨-, order, -, records, spent, out, tx⟩ := tables_of_offRails (drop_offRails g.dock Cmd.isRelease p)
  refine ⟨order, records, spent, out, tx, fun i => setRail_grant .., fun e => ?_⟩
  unfold Pillar.releaseDropped Pillar.endInPlace Pillar.modDock
  rw [setDock_dock, enterState_dock, enterState_dock, if_pos rfl, drop_dock, drop_dock]
  split <;> rfl

/-- R51, R81, R83, R87: the tables after a QUEUED grant has been cancelled. -/
theorem cancelled_queued {c : Ctx} {f : Pillar → Pillar} {i : Fin 8} {g : Grant} {p : Pillar} (hg : p.grant i = some g)
    (hf : f p = p.cancelGrant c i g) (hq : g.phase = .queued) :
    (p.event c f).grant i = none ∧ (∀ j, j ≠ i → (p.event c f).grant j = p.grant j) ∧
    (p.event c f).records =
      p.records ++ [{ time := c.stamp, body := g.ending .cancelled (p.dock g.dock).tag .beforeSend }] ∧
    (p.event c f).spent = (if g.rider.isSome then clearSpent g.id p.spent else p.spent) ∧
    (p.event c f).order = p.order ∧ (p.event c f).dock g.dock = (p.dock g.dock).keptInPlace ∧
    (∀ e, e ≠ g.dock → (p.event c f).dock e = p.dock e) ∧
    p.sends c (g.frames .cancelled p.out) (p.event c f) := by
  obtain ⟨horder, hrecords, hspent, hout, htx, hgrant, hdock⟩ := releaseDropped_tables g p
  rw [cancelGrant_queued hq] at hf
  change f p = (p.releaseDropped g).endGrant c i .cancelled .beforeSend (p.dock g.dock).tag at hf
  obtain ⟨gone, others, records, spent, order, dock⟩ := event_endGrant_tables hf ((hgrant i).trans hg)
  have sends := event_endGrant_sends hf ((hgrant i).trans hg) htx
  rw [hout] at sends
  refine ⟨gone, fun j hj => (others j hj).trans (hgrant j), by rw [records, hrecords], by rw [spent, hspent],
    order.trans horder, ?_, fun e he => ?_, sends⟩
  · rw [dock, hdock, if_pos rfl]
  · rw [dock, hdock, if_neg (Ne.symm he)]

/-- R81, R83: no RELEASE of the dock waits in RIDER or STATION after a QUEUED grant has been cancelled. -/
theorem cancelled_queued_release {c : Ctx} {f : Pillar → Pillar} {i : Fin 8} {g : Grant} {p : Pillar}
    (hg : p.grant i = some g) (hf : f p = p.cancelGrant c i g) (hq : g.phase = .queued) {src : Source} {m : Msg}
    (hm : m ∈ ((p.event c f).rail (railOf g.dock)).queue src) (hd : m.dock = g.dock) : m.cmd.isRelease = false := by
  obtain ⟨-, -, -, -, -, hgrant, -⟩ := releaseDropped_tables g p
  rcases mem_event_queue c f p hm with h | ⟨pattern, h⟩
  · rw [cancelGrant_queued hq] at hf
    change f p = (p.releaseDropped g).endGrant c i .cancelled .beforeSend (p.dock g.dock).tag at hf
    have rail : ∀ r, (f p).rail r = (p.drop g.dock Cmd.isRelease).rail r := fun r => by
      rw [hf, endGrant_eq ((hgrant i).trans hg), setGrant_rail]
      cases r <;> rfl
    rw [rail] at h
    exact mem_drop_queue h hd
  · rw [h]
    rfl

/-! ### A grant whose RELEASE is in the channel -/

/-- R140: an abort is asked for while the message is in the channel without an outcome, and changes nothing else. -/
theorem askAbort_queue (test : Msg → Bool) (x : Rail) (src : Source) : (x.askAbort test).queue src = x.queue src := by
  unfold Rail.askAbort
  split
  · split <;> cases src <;> rfl
  · rfl

theorem askAbort_chan {test : Msg → Bool} {x : Rail} {m : Msg} {source : Source} (h : x.chan.msg = some (m, source)) :
    (x.askAbort test).chan =
      if test m = true ∧ x.chan.outcome = none then { x.chan with abort := .asked } else x.chan := by
  unfold Rail.askAbort
  rw [h]
  dsimp only
  split <;> rfl

/-- R81, R83, R140: all but the channel of the dock's rail, after a cancel of a grant in SENDING. -/
theorem cancelled_sending {c : Ctx} {f : Pillar → Pillar} {i : Fin 8} {g : Grant} {p : Pillar}
    (hf : f p = p.cancelGrant c i g) (hs : g.phase = .sending) (hp : g.cancelPending = false) :
    (p.event c f).grant i = some { g with cancelPending := true } ∧
    (∀ j, j ≠ i → (p.event c f).grant j = p.grant j) ∧ (p.event c f).docks = p.docks ∧
    (p.event c f).order = p.order ∧ (p.event c f).records = p.records ∧ (p.event c f).spent = p.spent ∧
    p.sends c p.out (p.event c f) ∧
    ∀ r, (p.event c f).rail r = if railOf g.dock = r then
      (p.rail r).askAbort (fun m => m.dock = g.dock && m.cmd = .release g.id) else p.rail r := by
  rw [cancelGrant_sending hs hp] at hf
  obtain ⟨docks, order, grants, records, spent, out, tx⟩ := tables_of_offRails
    (show (f p).offRails = (p.setGrant i (some { g with cancelPending := true })).offRails by rw [hf, modRail_offRails])
  have slot : ∀ j, (p.event c f).grant j = if i = j then some { g with cancelPending := true } else p.grant j :=
    fun j => by
      rw [event_grant, ← setGrant_grant]
      simp only [Pillar.grant, grants]
  obtain ⟨edocks, eorder, -, erecords, espent, -⟩ := event_tables c f p
  refine ⟨by rw [slot, if_pos rfl], fun j hj => by rw [slot, if_neg (Ne.symm hj)], edocks.trans docks,
    eorder.trans order, erecords.trans records, espent.trans spent, ?_, fun r => ?_⟩
  · have sends := event_sends (c := c) (p := p) tx
    rwa [out] at sends
  · rw [event_of_docks docks, transmit_rail, hf, modRail_rail, setGrant_rail, setGrant_rail]
    split
    · next hr => rw [hr]
    · rfl

/-! ## ABORT_GRANT (R83) -/

/-- R83: an abort of an active grant that is not in RELOCK. -/
theorem applyAbortGrant_active {s : State} {grant : Byte} {i : Fin 8} {g : Grant} (h0 : grant ≠ 0#8)
    (hg : s.pillar.findGrant grant.toNat = some (i, g)) (hr : g.phase ≠ .relock) :
    s.applyAbortGrant grant = (s.event (fun c p => p.abortActive c i g), .ok) := by
  unfold State.applyAbortGrant
  rw [if_neg h0, hg]
  exact if_neg hr

/-- R83: an abort of a grant in RELOCK. -/
theorem applyAbortGrant_relock {s : State} {grant : Byte} {i : Fin 8} {g : Grant} (h0 : grant ≠ 0#8)
    (hg : s.pillar.findGrant grant.toNat = some (i, g)) (hr : g.phase = .relock) :
    s.applyAbortGrant grant = (s, .refuse .badState) := by
  unfold State.applyAbortGrant
  rw [if_neg h0, hg]
  exact if_pos hr

/-- R83, R169, R172: what the row leaves when the abort is taken; the request has set the link ONLINE. -/
theorem takeRequest_abort {u : State} {grant : Byte} {i : Fin 8} {g : Grant} (hp : u.link.port ≠ .working)
    (h0 : grant ≠ 0#8) (hg : u.pillar.findGrant grant.toNat = some (i, g)) (hr : g.phase ≠ .relock) :
    ∃ t, (Host.Outcome.next (u.takeRequest (.abortGrant grant)) : Host.Outcome State Fault Refusal) = .next t ∧
      t.link = u.link.served .ok ∧
      t.pillar = u.pillar.event u.onlineCtx (fun p => p.abortActive u.onlineCtx i g) := by
  have applied := applyAbortGrant_active (s := { u with link := u.link.take (.abortGrant grant) }) h0 hg hr
  have serves := takeRequest_serves (r := .abortGrant grant) hp (.inl rfl) applied (event_link ..)
  have online : ({ u with link := u.link.take (.abortGrant grant) } : State).ctx = u.onlineCtx := rfl
  refine ⟨_, congrArg Host.Outcome.next serves, rfl, ?_⟩
  rw [← online]
  dsimp only
  rw [event_pillar]

/-- Settles O25. -/
theorem abortGrantActsByPhase : Obligations.AbortGrantActsByPhase := by
  intro s u grant i g hu hp h0 hg
  rw [exec_row (c := .abortGrant grant) rfl fun _ _ => nofun, ← hu]
  clear hu
  obtain ⟨hslot, -⟩ := findGrant_some hg
  have taken := takeRequest_abort hp h0 hg
  refine ⟨fun hq => ?_, fun hs hc => ?_, fun hc => ?_, fun ho => ?_, fun hr => ?_⟩
  · obtain ⟨t, ht, hl, hpillar⟩ := taken (by rw [hq]; nofun)
    have acts := abortActive_of_ne_open (c := u.onlineCtx) (i := i) (p := u.pillar) (g := g) (by rw [hq]; nofun)
    obtain ⟨gone, others, records, -, order, dock, docks, -⟩ := cancelled_queued hslot acts hq
    refine ⟨t, ht, hl, ?_⟩
    rw [hpillar]
    refine ⟨gone, others, by rw [dock]; rfl, by rw [dock]; rfl, by rw [dock]; rfl, order, dock, docks, records,
      fun m hm hd => ?_⟩
    rcases List.mem_append.mp hm with hm | hm
    · exact cancelled_queued_release (src := .rider) hslot acts hq hm hd
    · exact cancelled_queued_release (src := .station) hslot acts hq hm hd
  · obtain ⟨t, ht, hl, hpillar⟩ := taken (by rw [hs]; nofun)
    have acts := abortActive_of_ne_open (c := u.onlineCtx) (i := i) (p := u.pillar) (g := g) (by rw [hs]; nofun)
    obtain ⟨pending, others, docks, -, records, -, -, rail⟩ := cancelled_sending acts hs hc
    refine ⟨t, ht, hl, ?_⟩
    rw [hpillar]
    refine ⟨pending, others, docks, records, fun source hmsg hout => ?_⟩
    rw [rail, if_pos rfl, askAbort_chan hmsg, if_pos ⟨by simp, hout⟩]
  · obtain ⟨t, ht, hl, hpillar⟩ := taken (by rw [hc]; nofun)
    have acts := abortActive_of_ne_open (c := u.onlineCtx) (i := i) (p := u.pillar) (g := g) (by rw [hc]; nofun)
    exact ⟨t, ht, hl, relocks_of_event hpillar (acts.trans (cancelGrant_confirming hc))⟩
  · obtain ⟨t, ht, hl, hpillar⟩ := taken (by rw [ho]; nofun)
    have relocks := relocks_of_event (g := { g with cancelPending := true }) hpillar (abortActive_open ho)
    obtain ⟨slot, -, dock, -, safety, -, -, records, -⟩ := id relocks
    exact ⟨t, ht, hl, slot, by rw [dock], safety, records, relocks⟩
  · exact congrArg Host.Outcome.next
      (takeRequest_answers hp (.inl rfl) fun l => applyAbortGrant_relock (s := { u with link := l }) h0 hg hr)

end Sys2Proof.Machine
end

