-- ==== Sys2Proof/Proofs/RiderFrames.lean ====
section
/-!
PROOFS. The accepted frames of the rider link (R163 to R165), the passing of a CANCEL to the Grant Engine (R81), and the end
of a transmission (R166).
-/

namespace Sys2Proof.Machine

/-! ## The inbox (R163, R164) -/

/-- R164: with an entry of its ref in the inbox, a CANCEL removes the oldest. -/
theorem acceptCancel_inbox {s : State} {ref : Byte} {before after : List Presentation} {pres : Presentation}
    (h : s.rider.inbox = before ++ pres :: after) (hp : pres.ref = ref) (hb : ∀ e ∈ before, e.ref ≠ ref) :
    s.acceptCancel ref =
      State.event (fun _ => Pillar.send (refusal ref .cancelled))
        { s with rider := { s.rider with inbox := before ++ after } } := by
  have erased : s.rider.inbox.eraseP (fun e => e.ref = ref) = before ++ after := by
    rw [h, List.eraseP_append_right _ (fun e he => by simp [hb e he]), List.eraseP_cons_of_pos (by simp [hp])]
  have found : s.rider.inbox.any (fun e => e.ref = ref) = true := by simp [h, hp]
  unfold State.acceptCancel
  rw [if_pos found, erased]

theorem inbox_any_eq_false {inbox : List Presentation} {ref : Byte} (h : ∀ e ∈ inbox, e.ref ≠ ref) :
    inbox.any (fun e => e.ref = ref) = false := by
  simpa using h

/-- R164: a CANCEL for the presentation under check is held. -/
theorem acceptCancel_held {s : State} {ref : Byte} {k : Check} (h : ∀ e ∈ s.rider.inbox, e.ref ≠ ref)
    (hk : s.tcu.check = some k) (hr : k.pres.ref = ref) :
    s.acceptCancel ref = { s with tcu := { s.tcu with heldCancel := some ref } } := by
  unfold State.acceptCancel
  rw [if_neg (Bool.eq_false_iff.mp (inbox_any_eq_false h)), if_pos (by simp [hk, hr])]

/-- R81, R164: any other CANCEL goes to the Grant Engine. -/
theorem acceptCancel_passed {s : State} {ref : Byte} (h : ∀ e ∈ s.rider.inbox, e.ref ≠ ref)
    (hk : ∀ k, s.tcu.check = some k → k.pres.ref ≠ ref) :
    s.acceptCancel ref = s.event (fun c => Pillar.cancelRef c ref) := by
  have other : ¬ s.tcu.check.any (fun k => k.pres.ref = ref) = true := by
    cases hc : s.tcu.check with
    | none => exact Bool.false_ne_true
    | some k => simpa using hk k hc
  unfold State.acceptCancel
  rw [if_neg (Bool.eq_false_iff.mp (inbox_any_eq_false h)), if_neg other]

/-! ## A CANCEL in the Grant Engine (R81) -/

theorem cancelRef_some {ref : Byte} {p : Pillar} {i : Fin 8} {g : Grant} (h : p.grantWithRef ref = some (i, g)) (c : Ctx) :
    p.cancelRef c ref = p.cancelGrant c i g := by
  unfold Pillar.cancelRef
  rw [h]

/-- R81: a CANCEL that finds no grant, or one in a phase where it comes too late, changes nothing. -/
theorem cancelRef_late {ref : Byte} {p : Pillar}
    (h : ∀ i g x, p.grant i = some g → g.rider = some x → x.ref = ref →
      g.phase = .open ∨ g.phase = .relock ∨ (g.phase = .sending ∧ g.cancelPending = true)) (c : Ctx) :
    p.cancelRef c ref = p := by
  cases hg : p.grantWithRef ref with
  | none =>
    unfold Pillar.cancelRef
    rw [hg]
  | some e =>
    obtain ⟨hslot, x, hx, hxr⟩ := grantWithRef_some hg
    rw [cancelRef_some hg]
    exact cancelGrant_late (h e.1 e.2 x hslot hx hxr)

/-- R81, R87: a CANCEL ends a QUEUED grant. -/
theorem grantEnded_of_cancel {s t : State} {f : Pillar → Pillar} {i : Fin 8} {g : Grant}
    (ht : t.pillar = s.pillar.event s.ctx f) (hf : f s.pillar = s.pillar.cancelGrant s.ctx i g)
    (hg : s.pillar.grant i = some g) (hq : g.phase = .queued) :
    s.grantEnded i g .cancelled .beforeSend [] t ∧ t.pillar.dock g.dock = (s.pillar.dock g.dock).keptInPlace ∧
    t.pillar.order = s.pillar.order ∧ ∀ e, e ≠ g.dock → t.pillar.dock e = s.pillar.dock e := by
  obtain ⟨gone, others, records, spent, order, dock, docks, sends⟩ := cancelled_queued hg hf hq
  unfold State.grantEnded
  rw [ht, List.append_nil]
  exact ⟨⟨gone, others, records, spent, sends⟩, dock, order, docks⟩

/-! ## The rows -/

/-- An event on the pillar reads and writes nothing of the receiver. -/
theorem event_atHunt (u : State) (f : Ctx → Pillar → Pillar) :
    State.event f { u with rider := u.rider.hunt } =
      { u with rider := u.rider.hunt, pillar := u.pillar.event u.ctx (f u.ctx) } := by
  have sameCtx : ({ u with rider := u.rider.hunt } : State).ctx = u.ctx := rfl
  unfold State.event
  rw [sameCtx]

/-- R164: the row of a CANCEL, the receiver left in HUNT (entry 13). -/
theorem exec_cancel (ref : Byte) (s : State) :
    exec (.cancel ref) s =
      .next (State.acceptCancel ref { s.settle with rider := s.settle.rider.hunt }) := rfl

/-- R163: the row of a PRESENT. -/
theorem present_row (s u : State) (ref : Byte) (token : Token) (hu : u = s.settle) :
    (u.rider.inbox.length < 4 →
      exec (.present ref token) s = .next { u with
        rider := { u.rider.hunt with inbox := u.rider.inbox ++ [{ ref := ref, token := token }] } }) ∧
    (4 ≤ u.rider.inbox.length →
      exec (.present ref token) s = .next { u with
        rider := u.rider.hunt
        pillar := u.pillar.event u.ctx (fun p => { p with out := p.out ++ [refusal ref .busy] }) }) := by
  rw [show exec (.present ref token) s =
    .next (State.acceptPresent ref token { s.settle with rider := s.settle.rider.hunt }) from rfl, ← hu]
  exact ⟨fun h => congrArg Host.Outcome.next (if_pos h), fun h => congrArg Host.Outcome.next (if_neg (Nat.not_lt.mpr h))⟩

/-- R165: the row of a QUERY. -/
theorem query_row (s u : State) (hu : u = s.settle) :
    (OutFrame.availability ∉ u.pillar.out →
      exec .query s = .next { u with
        rider := u.rider.hunt
        pillar := u.pillar.event u.ctx (fun p => { p with out := p.out ++ [.availability] }) }) ∧
    (OutFrame.availability ∈ u.pillar.out →
      exec .query s = .next { u with rider := u.rider.hunt, pillar := u.pillar.event u.ctx (fun p => p) }) := by
  have row : exec .query s =
      .next { u with rider := u.rider.hunt, pillar := u.pillar.event u.ctx Pillar.query } := by
    rw [show exec .query s = .next (State.acceptQuery { s.settle with rider := s.settle.rider.hunt }) from rfl, ← hu]
    exact congrArg Host.Outcome.next (event_atHunt u fun _ => Pillar.query)
  rw [row]
  constructor
  · intro h
    rw [event_congr (f := Pillar.query) (g := fun p => { p with out := p.out ++ [.availability] })
      (if_neg (by simpa using h))]
  · intro h
    rw [event_congr (f := Pillar.query) (g := fun p => p) (if_pos (by simpa using h))]

/-- R81: a CANCEL that is passed to the Grant Engine, by the phase of its grant. -/
theorem cancel_passed_row (s u : State) (ref : Byte) (hu : u = s.settle) (h : ∀ e ∈ u.rider.inbox, e.ref ≠ ref)
    (hk : ∀ k, u.tcu.check = some k → k.pres.ref ≠ ref) :
    exec (.cancel ref) s = .next { u with
      rider := u.rider.hunt, pillar := u.pillar.event u.ctx (Pillar.cancelRef u.ctx ref) } := by
  rw [exec_cancel, ← hu, acceptCancel_passed (s := { u with rider := u.rider.hunt }) h hk, event_atHunt]

/-- R81, R140: a CANCEL for a grant in SENDING. -/
theorem cancel_sending {u t : State} {ref : Byte} {i : Fin 8} {g : Grant}
    (ht : t.pillar = u.pillar.event u.ctx (Pillar.cancelRef u.ctx ref)) (hg : u.pillar.grantWithRef ref = some (i, g))
    (hs : g.phase = .sending) (hp : g.cancelPending = false) :
    t.pillar.grant i = some { g with cancelPending := true } ∧
    (∀ j, j ≠ i → t.pillar.grant j = u.pillar.grant j) ∧ t.pillar.docks = u.pillar.docks ∧
    t.pillar.order = u.pillar.order ∧ t.pillar.records = u.pillar.records ∧
    t.pillar.spent = u.pillar.spent ∧ u.pillar.sends u.ctx u.pillar.out t.pillar ∧
    (∀ r, r ≠ railOf g.dock → t.pillar.rail r = u.pillar.rail r) ∧
    (∀ src, (t.pillar.rail (railOf g.dock)).queue src = (u.pillar.rail (railOf g.dock)).queue src) ∧
    (∀ source, (u.pillar.rail (railOf g.dock)).chan.msg =
        some ({ cmd := .release g.id, dock := g.dock }, source) →
      ((u.pillar.rail (railOf g.dock)).chan.outcome = none →
        (t.pillar.rail (railOf g.dock)).chan =
          { (u.pillar.rail (railOf g.dock)).chan with abort := .asked }) ∧
      ((u.pillar.rail (railOf g.dock)).chan.outcome.isSome = true →
        (t.pillar.rail (railOf g.dock)).chan = (u.pillar.rail (railOf g.dock)).chan)) ∧
    (∀ m source, (u.pillar.rail (railOf g.dock)).chan.msg = some (m, source) →
      m ≠ { cmd := .release g.id, dock := g.dock } →
      (t.pillar.rail (railOf g.dock)).chan = (u.pillar.rail (railOf g.dock)).chan) := by
  obtain ⟨pending, others, docks, order, records, spent, sends, rail⟩ :=
    cancelled_sending (cancelRef_some hg u.ctx) hs hp
  rw [ht]
  refine ⟨pending, others, docks, order, records, spent, sends, fun r hr => ?_, fun src => ?_,
    fun source hmsg => ⟨fun ho => ?_, fun ho => ?_⟩, fun m source hmsg hne => ?_⟩
  · rw [rail, if_neg (Ne.symm hr)]
  · rw [rail, if_pos rfl, askAbort_queue]
  · rw [rail, if_pos rfl, askAbort_chan hmsg, if_pos ⟨by simp, ho⟩]
  · rw [rail, if_pos rfl, askAbort_chan hmsg, if_neg fun hc => by rw [hc.2] at ho; cases ho]
  · rw [rail, if_pos rfl, askAbort_chan hmsg, if_neg]
    rintro ⟨hm, -⟩
    obtain ⟨cmd, dock⟩ := m
    simp only [Bool.and_eq_true, decide_eq_true_eq] at hm
    exact hne (by rw [hm.1, hm.2])

/-- Settles O33. -/
theorem riderFramesAreHandedOn : Obligations.RiderFramesAreHandedOn := by
  intro s u hu
  refine ⟨fun ref token => (present_row s u ref token hu).1, fun ref token => (present_row s u ref token hu).2,
    fun ref before pres after hinbox hp hb => ?_, fun ref k h hk hr => ?_, fun ref h hk => ?_, (query_row s u hu).1,
    (query_row s u hu).2, fun x hx => ?_⟩
  · rw [exec_cancel, ← hu, acceptCancel_inbox (s := { u with rider := u.rider.hunt }) hinbox hp hb]
    rfl
  · rw [exec_cancel, ← hu, acceptCancel_held (s := { u with rider := u.rider.hunt }) h hk hr]
  · have row := cancel_passed_row s u ref hu h hk
    obtain ⟨t, ht, passed⟩ : ∃ t, exec (.cancel ref) s = .next t ∧
        t.pillar = u.pillar.event u.ctx (Pillar.cancelRef u.ctx ref) := ⟨_, row, by dsimp only⟩
    refine ⟨row, fun hlate => ?_, fun i g hg hc => ⟨t, ht, ?_⟩, fun i g hg hs hp => ⟨t, ht, ?_⟩,
      fun i g hg hq => ⟨t, ht, ?_⟩⟩
    · rw [row, event_congr (g := fun p => p) (cancelRef_late hlate u.ctx)]
    · exact relocks_of_event (s := u) passed ((cancelRef_some hg u.ctx).trans (cancelGrant_confirming hc))
    · exact cancel_sending passed hg hs hp
    · exact grantEnded_of_cancel passed (cancelRef_some hg u.ctx) (grantWithRef_some hg).1 hq
  · rw [show exec .transmitComplete s = .next s.settle.transmitComplete from rfl, ← hu]
    exact congrArg Host.Outcome.next (if_pos (by rw [hx]; rfl))

end Sys2Proof.Machine
end
